-- ==== Sys2Proof/Word.lean ====
section
/-! DEFINITION. The word types of the machine: 00_scope.md R5 gives the widths, R6 and R7 the notation.
All values are unsigned (R6); arithmetic on them is that of `BitVec`. -/

namespace Sys2Proof

/-- A memory byte, a general register, a timer: 8 bits (R5). -/
abbrev Byte := BitVec 8

/-- An instruction word, `I`, `PC` and a return address: 16 bits (R5). -/
abbrev Word := BitVec 16

/-- The number of a general register: the value of an `x` or `y` field, 0 to 15, all legal (R73). -/
abbrev Reg := Fin 16

/-- `VF = V[15]`, which doubles as the flag register (R22). -/
abbrev Reg.vf : Reg := 15

/-- `V0`, the offset register of Bnnn in classic mode (R21, R103). -/
abbrev Reg.v0 : Reg := 0

end Sys2Proof
end

