-- ==== Sys2Proof/Config.lean ====
section
/-! DEFINITION. What an implementation fixes (00_scope.md R5) and the one free value of the machine.
The parameters the spec marks "argument" are the fields of `Config`; a `State` carries them, so that a
statement about every state holds for every FONT and every STACK_DEPTH (R25, R28). -/

namespace Sys2Proof

/-- FONT: 16 glyphs of 5 bytes, one for each hexadecimal digit (10_state.md R25). -/
abbrev Font := Vector Byte 80

/-- The parameters of the machine that R5 marks "argument" (MODE and PROGRAM are arguments of RESET). -/
structure Config where
  /-- FONT, the 80 bytes that RESET places at 0x050 (R25). -/
  font : Font
  /-- STACK_DEPTH; `none` is the unbounded reading, in which StackOverflow never occurs (R28). -/
  stackDepth : Option Nat
  deriving DecidableEq, Repr

/-- MEM_SIZE: 4096 bytes (R5, R24). -/
def Config.memSize : Nat := 4096

/-- FONT_BASE (R5, R25). -/
def Config.fontBase : Nat := 0x050

/-- FONT_GLYPH_BYTES (R5). -/
def Config.glyphBytes : Nat := 5

/-- PROGRAM_BASE and PC_RESET (R5, R26). -/
def Config.programBase : Nat := 0x200

/-- The longest PROGRAM that RESET takes: the area 0x200 to 0xFFF (R242). -/
def Config.maxProgram : Nat := 3584

/-- NUM_KEYS: key codes are 0 to 15 (R5, R32). -/
def Config.numKeys : Nat := 16

/-- The default value of FONT that R25 tabulates. PRESUMED: R25 takes the bytes from general knowledge,
not from its source (log entry 4). unsafe: no statement rests on them. -/
def Config.defaultFont : Font :=
  #v[0xF0, 0x90, 0x90, 0x90, 0xF0,   0x20, 0x60, 0x20, 0x20, 0x70,
     0xF0, 0x10, 0xF0, 0x80, 0xF0,   0xF0, 0x10, 0xF0, 0x10, 0xF0,
     0x90, 0x90, 0xF0, 0x10, 0x10,   0xF0, 0x80, 0xF0, 0x10, 0xF0,
     0xF0, 0x80, 0xF0, 0x90, 0xF0,   0xF0, 0x10, 0x20, 0x40, 0x40,
     0xF0, 0x90, 0xF0, 0x90, 0xF0,   0xF0, 0x90, 0xF0, 0x10, 0xF0,
     0xF0, 0x90, 0xF0, 0x90, 0x90,   0xE0, 0x90, 0xE0, 0x90, 0xE0,
     0xF0, 0x80, 0x80, 0x80, 0xF0,   0xE0, 0x90, 0x90, 0x90, 0xE0,
     0xF0, 0x80, 0xF0, 0x80, 0xF0,   0xF0, 0x80, 0xF0, 0x80, 0x80]

/-- The defaults of R5: the tabulated FONT and STACK_DEPTH = 16 (R28). -/
def Config.standard : Config where
  font := Config.defaultFont
  stackDepth := some 16

/-- The random bytes of Cxnn: draw number `n` is `Config.drawRnd n`, "a free 8-bit value, chosen anew at each
use under no law" (R7, R122). It has no body, so nothing can be proved of its values. DESIGN CHOICE, safe: see
log entry 3 (numbering the draws by a counter of the state). -/
opaque Config.drawRnd : Nat → Byte

end Sys2Proof
end

