-- ==== Sys2Proof/Syntax.lean ====
section
/-! DEFINITION. The 34 instructions of the opcode map (30_encoding.md R75), one constructor a row, in the
order of spec/opcode_table.json. Operands have the width of their field (R71, R73), so every operand value the
encoding admits is one of the type and no other is. -/

namespace Sys2Proof

/-- An instruction with its operands. The pattern in each docstring is the instruction's normative name (R78). -/
inductive Instr where
  /-- 00E0 CLS: clear the framebuffer (R161). -/
  | cls
  /-- 00EE RET: return from subroutine (R100). -/
  | ret
  /-- 1nnn JP nnn: jump (R101). -/
  | jp (nnn : BitVec 12)
  /-- 2nnn CALL nnn: call subroutine (R102). -/
  | call (nnn : BitVec 12)
  /-- 3xnn SE Vx, nn: skip if equal to immediate (R110). -/
  | seImm (x : Reg) (nn : Byte)
  /-- 4xnn SNE Vx, nn: skip if not equal to immediate (R111). -/
  | sneImm (x : Reg) (nn : Byte)
  /-- 5xy0 SE Vx, Vy: skip if registers equal (R112). -/
  | seReg (x y : Reg)
  /-- 6xnn LD Vx, nn: load immediate (R120). -/
  | ldImm (x : Reg) (nn : Byte)
  /-- 7xnn ADD Vx, nn: add immediate without flag (R121). -/
  | addImm (x : Reg) (nn : Byte)
  /-- 8xy0 LD Vx, Vy: copy register (R131). -/
  | ldReg (x y : Reg)
  /-- 8xy1 OR Vx, Vy (R132). -/
  | orReg (x y : Reg)
  /-- 8xy2 AND Vx, Vy (R133). -/
  | andReg (x y : Reg)
  /-- 8xy3 XOR Vx, Vy (R134). -/
  | xorReg (x y : Reg)
  /-- 8xy4 ADD Vx, Vy: add with carry flag (R135). -/
  | addReg (x y : Reg)
  /-- 8xy5 SUB Vx, Vy: subtract with not-borrow flag (R136). -/
  | subReg (x y : Reg)
  /-- 8xy6 SHR Vx: shift right by one; the `y` field is decoded and its register is not used (R73, R137). -/
  | shr (x y : Reg)
  /-- 8xy7 SUBN Vx, Vy: reverse subtract with not-borrow flag (R138). -/
  | subnReg (x y : Reg)
  /-- 8xyE SHL Vx: shift left by one; the `y` field is decoded and its register is not used (R73, R139). -/
  | shl (x y : Reg)
  /-- 9xy0 SNE Vx, Vy: skip if registers differ (R113). -/
  | sneReg (x y : Reg)
  /-- Annn LD I, nnn: load index (R150). -/
  | ldI (nnn : BitVec 12)
  /-- Bnnn JP V0, nnn: jump with offset. One operand field `nnn`; extended mode reads `x` and `nn` out of the
  same bits when it executes (R72, R103). -/
  | jpV0 (nnn : BitVec 12)
  /-- Cxnn RND Vx, nn: random byte under mask (R122). -/
  | rnd (x : Reg) (nn : Byte)
  /-- Dxyn DRW Vx, Vy, n: draw a sprite of `n` rows, 0 to 15 (R162). -/
  | drw (x y : Reg) (n : Fin 16)
  /-- Ex9E SKP Vx: skip if key held (R170). -/
  | skp (x : Reg)
  /-- ExA1 SKNP Vx: skip if key not held (R171). -/
  | sknp (x : Reg)
  /-- Fx07 LD Vx, DT: read the delay timer (R180). -/
  | ldVxDt (x : Reg)
  /-- Fx0A LD Vx, K: wait for a key (R172). -/
  | ldVxK (x : Reg)
  /-- Fx15 LD DT, Vx: set the delay timer (R181). -/
  | ldDtVx (x : Reg)
  /-- Fx18 LD ST, Vx: set the sound timer (R182). -/
  | ldStVx (x : Reg)
  /-- Fx1E ADD I, Vx: add register to index (R152). -/
  | addI (x : Reg)
  /-- Fx29 LD F, Vx: point index at a font glyph (R151). -/
  | ldF (x : Reg)
  /-- Fx33 LD B, Vx: store binary-coded decimal (R190). -/
  | ldB (x : Reg)
  /-- Fx55 LD [I], Vx: store registers V0 to Vx (R191). -/
  | storeRegs (x : Reg)
  /-- Fx65 LD Vx, [I]: load registers V0 to Vx (R192). -/
  | loadRegs (x : Reg)
  deriving DecidableEq, Repr

end Sys2Proof
end

