-- ==== Sys2Proof/WellFormed.lean ====
section
/-! DEFINITION. What is well formed. An `Instr` always is: each operand's type is exactly its field's range and
"all 16 values are legal in every instruction that has the field" (30_encoding.md R73), so no check of an
instruction could refuse anything. What the host hands the machine can be ill formed: a key code (60_exceptions.md
R222, R223), a PROGRAM (70_reset_and_hazards.md R242), and a register or address operand written as a number, before
it is an `Instr` (R71). Each check has a term it refuses in Tests/Slice0.lean. -/

namespace Sys2Proof

/-- A key code is 0 to 15: "PRESS with `k` outside 0 to 15 is not an event of this hardware" (R222). -/
def Key.wellFormed (k : Nat) : Bool := decide (k < Config.numKeys)

/-- A PROGRAM has at most 3584 bytes: a longer one is refused (R242). Length 0 and odd lengths are accepted. -/
def Program.wellFormed (program : List Byte) : Bool := decide (program.length ≤ Config.maxProgram)

/-- A number that an `x`, `y` or `n` field can hold: 4 bits (R71). -/
def Operand.nibbleWellFormed (v : Nat) : Bool := decide (v < 16)

/-- A number that an `nn` field can hold: 8 bits (R71). -/
def Operand.byteWellFormed (v : Nat) : Bool := decide (v < 256)

/-- A number that an `nnn` field can hold: 12 bits, "a memory address 0x000 to 0xFFF" (R71). -/
def Operand.addressWellFormed (v : Nat) : Bool := decide (v < 4096)

end Sys2Proof
end

