-- ==== Sys2Proof/Decode.lean ====
section
/-! DEFINITION. The fields of an instruction word, the opcode map, the decoder and, after it, the encoder
(30_encoding.md R71 to R77; byte order 20_memory.md R54). -/

namespace Sys2Proof

/-- Why bytes are no instruction. -/
inductive DecodeError where
  /-- The word matches no row of the opcode map: InvalidOpcode, carrying the raw word (R74, R76). -/
  | invalidOpcode (w : Word)
  /-- Fewer than two bytes were given: every instruction has two (R71). The machine's fetch never gives fewer. -/
  | truncated
  deriving DecidableEq, Repr

/-- What the decoder answers: an instruction, or the named reason there is none. -/
abbrev DecodeResult := Except DecodeError Instr

/-! ## Fields (R71) -/

/-- `op = w[15:12]`. -/
def fieldOp (w : Word) : BitVec 4 := w.extractLsb' 12 4
/-- `x = w[11:8]`. -/
def fieldX (w : Word) : Reg := (w.extractLsb' 8 4).toFin
/-- `y = w[7:4]`. -/
def fieldY (w : Word) : Reg := (w.extractLsb' 4 4).toFin
/-- `n = w[3:0]`. -/
def fieldN (w : Word) : BitVec 4 := w.extractLsb' 0 4
/-- `nn = w[7:0]`. -/
def fieldNN (w : Word) : Byte := w.extractLsb' 0 8
/-- `nnn = w[11:0]`. -/
def fieldNNN (w : Word) : BitVec 12 := w.extractLsb' 0 12

/-! ## Decode (R74) -/

/-- Group 0 is matched on the whole word (R74). -/
def decodeGroup0 (w : Word) : DecodeResult :=
  if w = 0x00E0#16 then .ok .cls
  else if w = 0x00EE#16 then .ok .ret
  else .error (.invalidOpcode w)

/-- Groups 5 and 9 require `n = 0` (R74; 90_conflicts.md C3). -/
def decodeSkipReg (w : Word) (make : Reg → Reg → Instr) : DecodeResult :=
  if fieldN w = 0x0#4 then .ok (make (fieldX w) (fieldY w)) else .error (.invalidOpcode w)

/-- Group 8 is dispatched on `n` (R74). -/
def decodeGroup8 (w : Word) : DecodeResult :=
  let x := fieldX w
  let y := fieldY w
  let n := fieldN w
  if n = 0x0#4 then .ok (.ldReg x y)
  else if n = 0x1#4 then .ok (.orReg x y)
  else if n = 0x2#4 then .ok (.andReg x y)
  else if n = 0x3#4 then .ok (.xorReg x y)
  else if n = 0x4#4 then .ok (.addReg x y)
  else if n = 0x5#4 then .ok (.subReg x y)
  else if n = 0x6#4 then .ok (.shr x y)
  else if n = 0x7#4 then .ok (.subnReg x y)
  else if n = 0xE#4 then .ok (.shl x y)
  else .error (.invalidOpcode w)

/-- Group E is dispatched on `nn` (R74). -/
def decodeGroupE (w : Word) : DecodeResult :=
  let x := fieldX w
  let nn := fieldNN w
  if nn = 0x9E#8 then .ok (.skp x)
  else if nn = 0xA1#8 then .ok (.sknp x)
  else .error (.invalidOpcode w)

/-- Group F is dispatched on `nn` (R74). -/
def decodeGroupF (w : Word) : DecodeResult :=
  let x := fieldX w
  let nn := fieldNN w
  if nn = 0x07#8 then .ok (.ldVxDt x)
  else if nn = 0x0A#8 then .ok (.ldVxK x)
  else if nn = 0x15#8 then .ok (.ldDtVx x)
  else if nn = 0x18#8 then .ok (.ldStVx x)
  else if nn = 0x1E#8 then .ok (.addI x)
  else if nn = 0x29#8 then .ok (.ldF x)
  else if nn = 0x33#8 then .ok (.ldB x)
  else if nn = 0x55#8 then .ok (.storeRegs x)
  else if nn = 0x65#8 then .ok (.loadRegs x)
  else .error (.invalidOpcode w)

/-- `Decode(w)`: a total function from 16-bit words to an instruction or InvalidOpcode (R74). MODE plays no part
(R77). -/
def decode (w : Word) : DecodeResult :=
  let op := fieldOp w
  if op = 0x0#4 then decodeGroup0 w
  else if op = 0x1#4 then .ok (.jp (fieldNNN w))
  else if op = 0x2#4 then .ok (.call (fieldNNN w))
  else if op = 0x3#4 then .ok (.seImm (fieldX w) (fieldNN w))
  else if op = 0x4#4 then .ok (.sneImm (fieldX w) (fieldNN w))
  else if op = 0x5#4 then decodeSkipReg w .seReg
  else if op = 0x6#4 then .ok (.ldImm (fieldX w) (fieldNN w))
  else if op = 0x7#4 then .ok (.addImm (fieldX w) (fieldNN w))
  else if op = 0x8#4 then decodeGroup8 w
  else if op = 0x9#4 then decodeSkipReg w .sneReg
  else if op = 0xA#4 then .ok (.ldI (fieldNNN w))
  else if op = 0xB#4 then .ok (.jpV0 (fieldNNN w))
  else if op = 0xC#4 then .ok (.rnd (fieldX w) (fieldNN w))
  else if op = 0xD#4 then .ok (.drw (fieldX w) (fieldY w) (fieldN w).toFin)
  else if op = 0xE#4 then decodeGroupE w
  else decodeGroupF w

/-- The word of two bytes as they lie in memory, the byte at the lower address first: big-endian (R54). -/
def wordOfBytes (hi lo : Byte) : Word := hi ++ lo

/-- The two bytes of a word in the order they lie in memory (R54). -/
def bytesOfWord (w : Word) : List Byte := [w.extractLsb' 8 8, w.extractLsb' 0 8]

/-- The decoder on any bytes; the first two are the instruction (R71). -/
def decodeBytes : List Byte → DecodeResult
  | hi :: lo :: _ => decode (wordOfBytes hi lo)
  | _ => .error .truncated

/-- The word whose bits are `w` as spec/opcode_table.json numbers them: the one word of an instruction, bit 0 its
least significant; bits from `nbits` on are 0. -/
def tableWord (nbits w : Nat) : Word := BitVec.ofNat 16 (w % 2 ^ nbits)

/-- The host's view of the decoder: the bits of a table row, laid out as memory holds them, decoded. -/
def decodeTableWord (nbits w : Nat) : Option Instr :=
  match decodeBytes (bytesOfWord (tableWord nbits w)) with
  | .ok i => some i
  | .error _ => none

/-! ## Encode (formats of R72, opcodes of R75) -/

/-- Format A: `op ++ nnn`. -/
def formatA (op : BitVec 4) (nnn : BitVec 12) : Word := op ++ nnn

/-- Formats I and X: `op ++ x ++ nn`, `nn` an immediate (I) or a function byte (X). -/
def formatI (op : BitVec 4) (x : Reg) (nn : Byte) : Word := op ++ ((BitVec.ofFin x : BitVec 4) ++ nn)

/-- Formats R and D: `op ++ x ++ y ++ n`, `n` a function (R) or a row count (D). -/
def formatR (op : BitVec 4) (x y : Reg) (n : BitVec 4) : Word :=
  op ++ ((BitVec.ofFin x : BitVec 4) ++ ((BitVec.ofFin y : BitVec 4) ++ n))

/-- The word of an instruction, row by row from R75. -/
def encode : Instr → Word
  | .cls => 0x00E0#16
  | .ret => 0x00EE#16
  | .jp nnn => formatA 0x1#4 nnn
  | .call nnn => formatA 0x2#4 nnn
  | .seImm x nn => formatI 0x3#4 x nn
  | .sneImm x nn => formatI 0x4#4 x nn
  | .seReg x y => formatR 0x5#4 x y 0x0#4
  | .ldImm x nn => formatI 0x6#4 x nn
  | .addImm x nn => formatI 0x7#4 x nn
  | .ldReg x y => formatR 0x8#4 x y 0x0#4
  | .orReg x y => formatR 0x8#4 x y 0x1#4
  | .andReg x y => formatR 0x8#4 x y 0x2#4
  | .xorReg x y => formatR 0x8#4 x y 0x3#4
  | .addReg x y => formatR 0x8#4 x y 0x4#4
  | .subReg x y => formatR 0x8#4 x y 0x5#4
  | .shr x y => formatR 0x8#4 x y 0x6#4
  | .subnReg x y => formatR 0x8#4 x y 0x7#4
  | .shl x y => formatR 0x8#4 x y 0xE#4
  | .sneReg x y => formatR 0x9#4 x y 0x0#4
  | .ldI nnn => formatA 0xA#4 nnn
  | .jpV0 nnn => formatA 0xB#4 nnn
  | .rnd x nn => formatI 0xC#4 x nn
  | .drw x y n => formatR 0xD#4 x y (BitVec.ofFin n)
  | .skp x => formatI 0xE#4 x 0x9E#8
  | .sknp x => formatI 0xE#4 x 0xA1#8
  | .ldVxDt x => formatI 0xF#4 x 0x07#8
  | .ldVxK x => formatI 0xF#4 x 0x0A#8
  | .ldDtVx x => formatI 0xF#4 x 0x15#8
  | .ldStVx x => formatI 0xF#4 x 0x18#8
  | .addI x => formatI 0xF#4 x 0x1E#8
  | .ldF x => formatI 0xF#4 x 0x29#8
  | .ldB x => formatI 0xF#4 x 0x33#8
  | .storeRegs x => formatI 0xF#4 x 0x55#8
  | .loadRegs x => formatI 0xF#4 x 0x65#8

/-! ## The opcode map as R75 prints it: a pattern, a mask, a match -/

/-- A row of the opcode map: `w` is the row's instruction when `w & mask = bits` (R75). -/
structure OpcodeRow where
  /-- The hexadecimal pattern, the row's normative name (R78). -/
  pattern : String
  /-- The column "match". -/
  bits : Word
  /-- The column "mask". -/
  mask : Word
  deriving DecidableEq, Repr

/-- `w & mask = match` (R75). -/
def OpcodeRow.holds (r : OpcodeRow) (w : Word) : Bool := w &&& r.mask == r.bits

/-- The row of the opcode map that an instruction belongs to (R75). -/
def opcodeRow : Instr → OpcodeRow
  | .cls => ⟨"00E0", 0x00E0#16, 0xFFFF#16⟩
  | .ret => ⟨"00EE", 0x00EE#16, 0xFFFF#16⟩
  | .jp _ => ⟨"1nnn", 0x1000#16, 0xF000#16⟩
  | .call _ => ⟨"2nnn", 0x2000#16, 0xF000#16⟩
  | .seImm _ _ => ⟨"3xnn", 0x3000#16, 0xF000#16⟩
  | .sneImm _ _ => ⟨"4xnn", 0x4000#16, 0xF000#16⟩
  | .seReg _ _ => ⟨"5xy0", 0x5000#16, 0xF00F#16⟩
  | .ldImm _ _ => ⟨"6xnn", 0x6000#16, 0xF000#16⟩
  | .addImm _ _ => ⟨"7xnn", 0x7000#16, 0xF000#16⟩
  | .ldReg _ _ => ⟨"8xy0", 0x8000#16, 0xF00F#16⟩
  | .orReg _ _ => ⟨"8xy1", 0x8001#16, 0xF00F#16⟩
  | .andReg _ _ => ⟨"8xy2", 0x8002#16, 0xF00F#16⟩
  | .xorReg _ _ => ⟨"8xy3", 0x8003#16, 0xF00F#16⟩
  | .addReg _ _ => ⟨"8xy4", 0x8004#16, 0xF00F#16⟩
  | .subReg _ _ => ⟨"8xy5", 0x8005#16, 0xF00F#16⟩
  | .shr _ _ => ⟨"8xy6", 0x8006#16, 0xF00F#16⟩
  | .subnReg _ _ => ⟨"8xy7", 0x8007#16, 0xF00F#16⟩
  | .shl _ _ => ⟨"8xyE", 0x800E#16, 0xF00F#16⟩
  | .sneReg _ _ => ⟨"9xy0", 0x9000#16, 0xF00F#16⟩
  | .ldI _ => ⟨"Annn", 0xA000#16, 0xF000#16⟩
  | .jpV0 _ => ⟨"Bnnn", 0xB000#16, 0xF000#16⟩
  | .rnd _ _ => ⟨"Cxnn", 0xC000#16, 0xF000#16⟩
  | .drw _ _ _ => ⟨"Dxyn", 0xD000#16, 0xF000#16⟩
  | .skp _ => ⟨"Ex9E", 0xE09E#16, 0xF0FF#16⟩
  | .sknp _ => ⟨"ExA1", 0xE0A1#16, 0xF0FF#16⟩
  | .ldVxDt _ => ⟨"Fx07", 0xF007#16, 0xF0FF#16⟩
  | .ldVxK _ => ⟨"Fx0A", 0xF00A#16, 0xF0FF#16⟩
  | .ldDtVx _ => ⟨"Fx15", 0xF015#16, 0xF0FF#16⟩
  | .ldStVx _ => ⟨"Fx18", 0xF018#16, 0xF0FF#16⟩
  | .addI _ => ⟨"Fx1E", 0xF01E#16, 0xF0FF#16⟩
  | .ldF _ => ⟨"Fx29", 0xF029#16, 0xF0FF#16⟩
  | .ldB _ => ⟨"Fx33", 0xF033#16, 0xF0FF#16⟩
  | .storeRegs _ => ⟨"Fx55", 0xF055#16, 0xF0FF#16⟩
  | .loadRegs _ => ⟨"Fx65", 0xF065#16, 0xF0FF#16⟩

/-- The complete opcode map, 34 rows in the order of R75: the row of each constructor, at operands 0. -/
def opcodeMap : List OpcodeRow :=
  [.cls, .ret, .jp 0, .call 0, .seImm 0 0, .sneImm 0 0, .seReg 0 0, .ldImm 0 0, .addImm 0 0, .ldReg 0 0,
   .orReg 0 0, .andReg 0 0, .xorReg 0 0, .addReg 0 0, .subReg 0 0, .shr 0 0, .subnReg 0 0, .shl 0 0, .sneReg 0 0,
   .ldI 0, .jpV0 0, .rnd 0 0, .drw 0 0 0, .skp 0, .sknp 0, .ldVxDt 0, .ldVxK 0, .ldDtVx 0, .ldStVx 0, .addI 0,
   .ldF 0, .ldB 0, .storeRegs 0, .loadRegs 0].map opcodeRow

end Sys2Proof
end

