-- ==== Sys2Proof/Machine/State.lean ====
section
/-! DEFINITION. The state of the machine as plain data: every element of the table of 10_state.md R20, the
parameters of the machine (00_scope.md R5) and the model's own draw counter; the state right after reset. -/

namespace Sys2Proof.Machine

/-- MODE: the quirk selector fixed at RESET (R33); it is no privilege level (R235). -/
inductive Mode where
  /-- The target of Bnnn is `nnn + V0`. -/
  | classic
  /-- The target of Bnnn is `nn + V[x]`. -/
  | extended
  deriving DecidableEq, Repr

/-- The four kinds of fault (60_exceptions.md R200, R201, R207, R202). -/
inductive FaultKind where
  /-- The fetched word matches no row of the opcode map (R200). -/
  | invalidOpcode
  /-- A return with an empty call stack (R201). -/
  | stackUnderflow
  /-- Address arithmetic past the 4096 bytes, or past 16 bits in Fx1E (R207). -/
  | outOfBounds
  /-- A call with STACK_DEPTH entries on the stack (R202). -/
  | stackOverflow
  deriving DecidableEq, Repr

/-- The fault record (R204). Its `code` is a function of `kind` (`FaultKind.code`), so it is no field. -/
structure FaultRecord where
  /-- Which fault. -/
  kind : FaultKind
  /-- The instruction word, absent when fetch raised the fault. -/
  word : Option Word
  /-- The value of `PC` at the raise. -/
  pc : Word
  /-- The offending address, for OutOfBounds alone; 17 bits in the Fx1E overflow, hence a number. -/
  addr : Option Nat
  deriving DecidableEq, Repr

/-- The reasons a step could answer `Outcome.fault`: NONE. Every fault of the spec is entered as the spec describes it,
by a next state whose `fault` field is written (R203 to R206), so no step raises one of these. That is safe: nothing
stops where the spec goes on. -/
inductive Fault where
  deriving DecidableEq, Repr

/-- The reasons something is refused. `step` and every meaning refuse nothing. -/
inductive Refusal where
  /-- Raised by an arm of `exec` whose instruction has no meaning yet: no arm does. safe. -/
  | notModelled (mnemonic : String)
  /-- Raised by the events PRESS(k) and RELEASE(k) with `k` over 15: "a model refuses any other value" (R222, R223).
  safe: the host has no such event. -/
  | keyOutOfRange (k : Nat)
  /-- Raised by the event RESET with a PROGRAM of more than 3584 bytes: "it is not an event of the machine and
  produces no state" (R242). safe: the host has no such event. -/
  | programTooLong (length : Nat)
  deriving DecidableEq, Repr

/-- Memory: (address, byte) pairs, addresses strictly rising, no entry equal to the reset image at its address.
An address that is not listed holds the reset image (log entry 8). -/
abbrev Memory := List Host.Cell

/-- The framebuffer: row `j` (0 at the top) is the bit vector `fb[j]`, column `i` its bit `i` from the MOST significant,
which is the packing R30 gives: row-major, most significant bit first (log entry 12). -/
abbrev FrameBuffer := Vector (BitVec 64) 32

/-- The complete state (R20). -/
structure State where
  /-- FONT and STACK_DEPTH, the machine's parameters (R5); nothing writes them (log entry 4). -/
  cfg : Config
  /-- `MEM` (R24). -/
  mem : Memory
  /-- `V[0]` to `V[15]` (R21). -/
  v : Vector Byte 16
  /-- `I` (R27). -/
  i : Word
  /-- `PC` (R23). -/
  pc : Word
  /-- `STACK`, bottom first: `s[0], ..., s[d-1]` (R28). -/
  stack : List Word
  /-- `FB` (R30). -/
  fb : FrameBuffer
  /-- `DT`, the delay timer (R31). -/
  dt : Byte
  /-- `ST`, the sound timer (R31). -/
  st : Byte
  /-- `KEYS`: bit `k` is set when key `k` is held (R32). -/
  keys : BitVec 16
  /-- `MODE` (R33). -/
  mode : Mode
  /-- `DC`, the display-changed flag (R34). -/
  dc : Bool
  /-- `FAULT` (R35). -/
  fault : Option FaultRecord
  /-- The model's own: how many draws of Cxnn there have been (R122; log entry 3). -/
  rndCount : Nat
  deriving DecidableEq, Repr

/-- The machine right after RESET of the empty PROGRAM in classic mode, with the default FONT and STACK_DEPTH (R37,
R240). DESIGN CHOICE: the mode, the empty program (log entry 5) and `rndCount` (log entry 3). The zeros of V, I, DT, ST,
STACK, FB, KEYS, DC and FAULT are the spec's own choice, its decision D10 (log entry 7); unsafe. -/
def State.reset : State where
  cfg := Config.standard
  mem := []
  v := Vector.replicate 16 0
  i := 0
  pc := 0x200
  stack := []
  fb := Vector.replicate 32 0
  dt := 0
  st := 0
  keys := 0
  mode := .classic
  dc := false
  fault := none
  rndCount := 0

end Sys2Proof.Machine
end

