-- ==== Sys2Proof/Machine/Ops.lean ====
section
/-! DEFINITION. The named operations over memory, registers, call stack and framebuffer; raising a fault, the machine's
one exception entry; fetch. Every access to these elements goes through this file. -/

namespace Sys2Proof.Machine

/-! ## Memory (20_memory.md) -/

/-- What RESET puts at address `a` before PROGRAM is copied in: FONT from 0x050 on, zero elsewhere (R26, R59, R240). It is
what an address that memory does not list reads as. -/
def resetByte (font : Font) (a : Nat) : Byte :=
  if a < Config.fontBase then 0 else font.toList.getD (a - Config.fontBase) 0

/-- The byte listed at `a`, if any. -/
def Memory.lookup : Memory → Nat → Option Byte
  | [], _ => none
  | (a', b) :: m, a => if a = a' then some b else Memory.lookup m a

/-- The byte at `a`: the listed one, else that of the image `bg`. -/
def Memory.read (bg : Nat → Byte) (m : Memory) (a : Nat) : Byte := (m.lookup a).getD (bg a)

/-- List `b` at `a`, keeping addresses rising. -/
def Memory.insert (a : Nat) (b : Byte) : Memory → Memory
  | [] => [(a, b)]
  | (a', b') :: m =>
    if a < a' then (a, b) :: (a', b') :: m
    else if a = a' then (a, b) :: m
    else (a', b') :: Memory.insert a b m

/-- Take what is listed at `a` out. -/
def Memory.erase (a : Nat) (m : Memory) : Memory := m.filter fun c => c.1 != a

/-- Write `b` at `a`; writing what the image holds removes the entry, so that equal memories are equal lists. -/
def Memory.write (bg : Nat → Byte) (m : Memory) (a : Nat) (b : Byte) : Memory :=
  if b = bg a then m.erase a else m.insert a b

/-- The canonical form: addresses strictly rising and below 4096, no entry equal to the image `bg` at its address. -/
abbrev Memory.wf (bg : Nat → Byte) (m : Memory) : Prop :=
  m.Pairwise (fun c d => c.1 < d.1) ∧ ∀ c ∈ m, c.1 < Config.memSize ∧ c.2 ≠ bg c.1

/-- The machine's reset image: that of its FONT. -/
def State.image (s : State) : Nat → Byte := resetByte s.cfg.font

/-- `MEM[a]`. A read has no side effect (R52). The bound of R52 is `rangeOk`, which every access checks first. -/
def State.readByte (s : State) (a : Nat) : Byte := s.mem.read s.image a

/-- `MEM[a] <- b` (R53). The bound of R53 is `rangeOk`, which every access checks first. -/
def State.writeByte (s : State) (a : Nat) (b : Byte) : State := { s with mem := s.mem.write s.image a b }

/-- The bytes at `base`, `base + 1`, ..., `n` of them, in increasing address order (R58). -/
def State.readBytes (s : State) (base n : Nat) : List Byte := (List.range n).map fun k => s.readByte (base + k)

/-- Write the bytes at `base`, `base + 1`, ..., in increasing address order (R58). -/
def State.writeBytes (s : State) (base : Nat) : List Byte → State
  | [] => s
  | b :: bs => State.writeBytes (s.writeByte base b) (base + 1) bs

/-- The bound of every access (R51, R52, R53, R55, R58): the range is empty or lies below 4096. No address is masked or
wrapped. -/
def rangeOk (base len : Nat) : Bool := len == 0 || decide (base + len ≤ Config.memSize)

/-- The address that OutOfBounds reports for a range at `base`: the first of the range that is out of bounds (R58). -/
def outOfRangeAddr (base : Nat) : Nat := max base Config.memSize

/-! ## Registers (R21) -/

/-- `V[r]`. -/
def State.reg (s : State) (r : Reg) : Byte := s.v[r]

/-- `V[r] <- b`. -/
def State.setReg (s : State) (r : Reg) (b : Byte) : State := { s with v := s.v.set r b }

/-! ## Call stack (R28) -/

/-- Whether the stack holds STACK_DEPTH entries; with no bound it never does. -/
def State.stackFull (s : State) : Bool := s.cfg.stackDepth == some s.stack.length

/-- `push(v)` on a stack that is not full. -/
def State.push (s : State) (w : Word) : State := { s with stack := s.stack ++ [w] }

/-- `pop()`: the top entry and the state without it; `none` when the stack is empty. -/
def State.pop (s : State) : Option (Word × State) :=
  match s.stack.getLast? with
  | none => none
  | some w => some (w, { s with stack := s.stack.dropLast })

/-! ## Framebuffer (R30, R160 to R163) -/

/-- `FB[row][col]`; a position outside the 32 by 64 pixels is off. -/
def FrameBuffer.pixel (fb : FrameBuffer) (row col : Nat) : Bool :=
  if h : row < 32 then fb[row].getMsbD col else false

/-- All 2048 bits off. -/
def FrameBuffer.blank : FrameBuffer := Vector.replicate 32 0

/-- A sprite row with its leftmost pixel, bit 7 of the byte, at screen column `x0`; columns past 63 are clipped (R160,
R162). -/
def spriteMask (b : Byte) (x0 : Nat) : BitVec 64 := (b ++ 0#56) >>> x0

/-- Draw one row at screen row `j` by exclusive-or, and whether it turned a lit pixel off; a row past 31 is clipped
(R162, R163). -/
def drawRow (fb : FrameBuffer) (j : Nat) (mask : BitVec 64) : FrameBuffer × Bool :=
  if h : j < 32 then (fb.set j (fb[j] ^^^ mask), fb[j] &&& mask != 0) else (fb, false)

/-- Draw the rows of a sprite from screen row `y0` down, and whether any turned a lit pixel off (R162). -/
def drawSprite (x0 : Nat) : FrameBuffer → Nat → List Byte → FrameBuffer × Bool
  | fb, _, [] => (fb, false)
  | fb, y0, b :: bs =>
    let first := drawRow fb y0 (spriteMask b x0)
    let rest := drawSprite x0 first.1 (y0 + 1) bs
    (rest.1, first.2 || rest.2)

/-! ## Faults: the one exception entry (60_exceptions.md R203 to R206) -/

/-- The number of a fault kind (R204). -/
def FaultKind.code : FaultKind → Nat
  | .invalidOpcode => 1
  | .stackUnderflow => 2
  | .outOfBounds => 3
  | .stackOverflow => 4

/-- The field `code` of a record (R204). -/
def FaultRecord.code (r : FaultRecord) : Nat := r.kind.code

/-- `raise`: write the record, with `PC` as it stands, and nothing else; the machine is then halted (R203, R204, R205).
There is no way back but RESET (R209), so no return from it stands beside it. -/
def State.raise (s : State) (kind : FaultKind) (word : Option Word) (addr : Option Nat) : State :=
  { s with fault := some { kind := kind, word := word, pc := s.pc, addr := addr } }

/-- `raise` in the execution of instruction `i`: the record's word is that of `i` (R204). -/
def State.raiseIn (s : State) (i : Instr) (kind : FaultKind) (addr : Option Nat) : State :=
  s.raise kind (some (encode i)) addr

/-- OutOfBounds by instruction `i`, for a range of memory at `base` (R58, R207). -/
def State.raiseRange (s : State) (i : Instr) (base : Nat) : State :=
  s.raiseIn i .outOfBounds (some (outOfRangeAddr base))

/-- The machine is halted exactly when `FAULT` is not none (R206). -/
def State.halted (s : State) : Bool := s.fault.isSome

/-! ## Fetch (R54, R55) -/

/-- The two bytes at `a` as a big-endian word (R54). -/
def State.wordAt (s : State) (a : Nat) : Word := wordOfBytes (s.readByte a) (s.readByte (a + 1))

/-- The fetch advance of `PC`. -/
def State.advance (s : State) : State := { s with pc := s.pc + 2 }

/-- Fetch: the word at `PC` and the state with `PC` advanced; `none` when `PC + 2` exceeds 4096 (R55). Any `PC`, odd or
even, is fetched from (R56). -/
def State.fetch (s : State) : Option (Word × State) :=
  if rangeOk s.pc.toNat 2 then some (s.wordAt s.pc.toNat, s.advance) else none

/-- OutOfBounds at fetch: no word, `PC` unchanged and reported as the address (R55, R204, R207). -/
def State.raiseFetch (s : State) : State := s.raise .outOfBounds none (some s.pc.toNat)

/-- InvalidOpcode at decode of `w`, after the fetch advance (R200). -/
def State.raiseInvalid (s : State) (w : Word) : State := s.raise .invalidOpcode (some w) none

end Sys2Proof.Machine
end

