-- ==== Sys2Proof/Machine/Flags.lean ====
section
/-! DEFINITION. Every flag computation: VF is the only flag (10_state.md R22), written last (43_alu.md R130). -/

namespace Sys2Proof.Machine

/-- A flag as the byte VF receives: 1 or 0 (R135 to R139, R162). -/
def flagByte (b : Bool) : Byte := if b then 1 else 0

/-- Carry of 8xy4: the sum exceeds 255 (R135). -/
def carryFlag (a b : Byte) : Bool := decide (a.toNat + b.toNat > 255)

/-- Not-borrow of `a - b` in 8xy5 and 8xy7: `a >= b`, equal operands included (R136, R138). -/
def notBorrowFlag (a b : Byte) : Bool := decide (a.toNat ≥ b.toNat)

/-- The bit 8xy6 shifts out: bit 0 (R137). -/
def shiftRightFlag (a : Byte) : Bool := a.getLsbD 0

/-- The bit 8xyE shifts out: bit 7 (R139). -/
def shiftLeftFlag (a : Byte) : Bool := a.getLsbD 7

/-- The write order of R130 steps (3) and (4): the result to `V[x]`, then the flag to VF. With `x = 15` the flag is what
stays. -/
def State.setResultFlag (s : State) (x : Reg) (result : Byte) (flag : Bool) : State :=
  (s.setReg x result).setReg Reg.vf (flagByte flag)

end Sys2Proof.Machine
end

