-- ==== Sys2Proof/Machine/Operands.lean ====
section
/-! DEFINITION. Every operand form: addresses, skip conditions, keys, digits, register ranges. All operands are unsigned
and zero-extended (30_encoding.md R73). -/

namespace Sys2Proof.Machine

/-- `zext_16(nnn)` (R73). -/
def zextAddr (nnn : BitVec 12) : Word := nnn.setWidth 16

/-- `zext_16(b)` (R73). -/
def zextByte (b : Byte) : Word := b.setWidth 16

/-- Set `PC` to a target; assigning an out-of-range value is no fault (R23). -/
def State.jump (s : State) (target : Word) : State := { s with pc := target }

/-- Skip the next word when `c` holds: 2 more to `PC` (R114). -/
def State.skipIf (s : State) (c : Bool) : State := if c then { s with pc := s.pc + 2 } else s

/-- The `x` field of Bnnn in extended mode: `w[11:8]`, the high nibble of `nnn` (R72, R103). -/
def offsetReg (nnn : BitVec 12) : Reg := (nnn.extractLsb' 8 4).toFin

/-- The `nn` field of Bnnn in extended mode: `w[7:0]`, the low byte of `nnn` (R72, R103). -/
def offsetBase (nnn : BitVec 12) : Byte := nnn.extractLsb' 0 8

/-- The target of Bnnn: `nnn + V0` in classic mode, `nn + V[x]` in extended mode (R103). -/
def State.offsetTarget (s : State) (nnn : BitVec 12) : Word :=
  match s.mode with
  | .classic => zextAddr nnn + zextByte (s.reg Reg.v0)
  | .extended => zextByte (offsetBase nnn) + zextByte (s.reg (offsetReg nnn))

/-- The address Fx29 gives: `0x050 + 5 * V[x]`, the whole byte used (R151). -/
def glyphAddr (b : Byte) : Word := BitVec.ofNat 16 (Config.fontBase + Config.glyphBytes * b.toNat)

/-- `is_held(key)`: the whole byte is the key number, and no number over 15 is ever held (R170, R225). -/
def keyHeld (keys : BitVec 16) (b : Byte) : Bool := keys.getLsbD b.toNat

/-- `any_held()`: the numerically lowest held key, if any (R172, R225). -/
def lowestKey (keys : BitVec 16) : Option Nat := (List.range Config.numKeys).find? fun k => keys.getLsbD k

/-- The decimal digits of a byte, hundreds first (R190). -/
def bcdDigits (b : Byte) : List Byte :=
  [BitVec.ofNat 8 (b.toNat / 100), BitVec.ofNat 8 (b.toNat / 10 % 10), BitVec.ofNat 8 (b.toNat % 10)]

/-- How many registers Fx55 and Fx65 transfer: V0 to Vx inclusive (R191, R192). -/
def regCount (x : Reg) : Nat := x.val + 1

/-- `V[0]` to `V[x]` (R191). -/
def State.regsUpTo (s : State) (x : Reg) : List Byte := s.v.toList.take (regCount x)

/-- `V[k] <- MEM[base + k]` for `k` from 0 to `x`; the registers above `x` keep their values (R192). -/
def State.loadRegsFrom (s : State) (base : Nat) (x : Reg) : State :=
  { s with v := Vector.ofFn fun r : Reg => if r ≤ x then s.readByte (base + r.val) else s.reg r }

/-- The screen column a sprite starts at: `V[x] mod 64` (R162). -/
def spriteColumn (b : Byte) : Nat := b.toNat % 64

/-- The screen row a sprite starts at: `V[y] mod 32` (R162). -/
def spriteTop (b : Byte) : Nat := b.toNat % 32

end Sys2Proof.Machine
end

