-- ==== Sys2Proof/Machine/Alu.lean ====
section
/-! DEFINITION. Register-register instructions: 8xy0 to 8xy7, 8xyE (43_alu.md R130 to R140). Operands are sampled from the state
before anything is written; where there is a flag it is written last (R130). -/

namespace Sys2Proof.Machine

/-- LD Vx, Vy (R131). -/
def execLdReg (x y : Reg) (s : State) : Host.Outcome State Fault Refusal :=
  .next (s.setReg x (s.reg y))

/-- OR Vx, Vy (R132): VF is not written as a flag. -/
def execOrReg (x y : Reg) (s : State) : Host.Outcome State Fault Refusal :=
  .next (s.setReg x (s.reg x ||| s.reg y))

/-- AND Vx, Vy (R133). -/
def execAndReg (x y : Reg) (s : State) : Host.Outcome State Fault Refusal :=
  .next (s.setReg x (s.reg x &&& s.reg y))

/-- XOR Vx, Vy (R134). -/
def execXorReg (x y : Reg) (s : State) : Host.Outcome State Fault Refusal :=
  .next (s.setReg x (s.reg x ^^^ s.reg y))

/-- ADD Vx, Vy (R135): modulo 256, VF is the carry. -/
def execAddReg (x y : Reg) (s : State) : Host.Outcome State Fault Refusal :=
  .next (s.setResultFlag x (s.reg x + s.reg y) (carryFlag (s.reg x) (s.reg y)))

/-- SUB Vx, Vy (R136): `vx - vy` modulo 256, VF is 1 when there is no borrow. -/
def execSubReg (x y : Reg) (s : State) : Host.Outcome State Fault Refusal :=
  .next (s.setResultFlag x (s.reg x - s.reg y) (notBorrowFlag (s.reg x) (s.reg y)))

/-- SHR Vx (R137): `vx` alone is shifted, in both modes; the register of `y` is not used. -/
def execShr (x _y : Reg) (s : State) : Host.Outcome State Fault Refusal :=
  .next (s.setResultFlag x (s.reg x >>> 1) (shiftRightFlag (s.reg x)))

/-- SUBN Vx, Vy (R138): `vy - vx` modulo 256, VF is 1 when there is no borrow. -/
def execSubnReg (x y : Reg) (s : State) : Host.Outcome State Fault Refusal :=
  .next (s.setResultFlag x (s.reg y - s.reg x) (notBorrowFlag (s.reg y) (s.reg x)))

/-- SHL Vx (R139): `vx` alone is shifted, in both modes; the register of `y` is not used. -/
def execShl (x _y : Reg) (s : State) : Host.Outcome State Fault Refusal :=
  .next (s.setResultFlag x (s.reg x <<< 1) (shiftLeftFlag (s.reg x)))

end Sys2Proof.Machine
end

