-- ==== Sys2Proof/Machine/Display.lean ====
section
/-! DEFINITION. Display instructions: 00E0, Dxyn (45_display.md R160 to R163). -/

namespace Sys2Proof.Machine

/-- Replace the framebuffer and raise the display-changed flag (R34, R161, R162). -/
def State.present (s : State) (fb : FrameBuffer) : State := { s with fb := fb, dc := true }

/-- CLS (R161): `DC` is set even when no pixel changed. -/
def execCls (s : State) : Host.Outcome State Fault Refusal :=
  .next (s.present FrameBuffer.blank)

/-- DRW Vx, Vy, n (R162): all `n` bytes are bounds-checked first, then the sprite is drawn by exclusive-or from
(`V[x] mod 64`, `V[y] mod 32`) with clipping; VF is the collision flag, `DC` is set. -/
def execDrw (x y : Reg) (n : Fin 16) (s : State) : Host.Outcome State Fault Refusal :=
  let base := s.i.toNat
  if rangeOk base n.val then
    let drawn := drawSprite (spriteColumn (s.reg x)) s.fb (spriteTop (s.reg y)) (s.readBytes base n.val)
    .next ((s.setReg Reg.vf (flagByte drawn.2)).present drawn.1)
  else .next (s.raiseRange (.drw x y n) base)

end Sys2Proof.Machine
end

