-- ==== Sys2Proof/Machine/Flow.lean ====
section
/-! DEFINITION. Control transfer: 00EE, 1nnn, 2nnn, Bnnn (40_flow.md R100 to R104). Each runs with `PC` already advanced by
fetch (30_encoding.md R70). -/

namespace Sys2Proof.Machine

/-- RET (R100): `PC <- pop()`; StackUnderflow on an empty stack, before any write (R201). -/
def execRet (s : State) : Host.Outcome State Fault Refusal :=
  match s.pop with
  | none => .next (s.raiseIn .ret .stackUnderflow none)
  | some (w, t) => .next (t.jump w)

/-- JP nnn (R101). -/
def execJp (nnn : BitVec 12) (s : State) : Host.Outcome State Fault Refusal :=
  .next (s.jump (zextAddr nnn))

/-- CALL nnn (R102): push the advanced `PC`, then jump; StackOverflow at STACK_DEPTH, before any write (R202). -/
def execCall (nnn : BitVec 12) (s : State) : Host.Outcome State Fault Refusal :=
  if s.stackFull then .next (s.raiseIn (.call nnn) .stackOverflow none)
  else .next ((s.push s.pc).jump (zextAddr nnn))

/-- JP V0, nnn (R103): the one instruction that MODE changes. -/
def execJpV0 (nnn : BitVec 12) (s : State) : Host.Outcome State Fault Refusal :=
  .next (s.jump (s.offsetTarget nnn))

end Sys2Proof.Machine
end

