-- ==== Sys2Proof/Machine/Immediate.lean ====
section
/-! DEFINITION. Register-immediate instructions: 6xnn, 7xnn, Cxnn (42_immediate.md R120 to R122). -/

namespace Sys2Proof.Machine

/-- LD Vx, nn (R120). -/
def execLdImm (x : Reg) (nn : Byte) (s : State) : Host.Outcome State Fault Refusal :=
  .next (s.setReg x nn)

/-- ADD Vx, nn (R121): modulo 256, no flag. -/
def execAddImm (x : Reg) (nn : Byte) (s : State) : Host.Outcome State Fault Refusal :=
  .next (s.setReg x (s.reg x + nn))

/-- The effect of RND Vx, nn for the draw `r` (R122): `V[x] <- r & nn`. -/
def State.storeDraw (s : State) (x : Reg) (nn : Byte) (r : Byte) : State := s.setReg x (r &&& nn)

/-- RND Vx, nn (R122) with the next draw, a free value: nothing is known of `Config.drawRnd` (log entry 3). -/
def execRnd (x : Reg) (nn : Byte) (s : State) : Host.Outcome State Fault Refusal :=
  .next { s.storeDraw x nn (Config.drawRnd s.rndCount) with rndCount := s.rndCount + 1 }

end Sys2Proof.Machine
end

