-- ==== Sys2Proof/Machine/Index.lean ====
section
/-! DEFINITION. Index register instructions: Annn, Fx29, Fx1E (44_index.md R150 to R152). -/

namespace Sys2Proof.Machine

/-- `I <- w` (R27). -/
def State.setIndex (s : State) (w : Word) : State := { s with i := w }

/-- LD I, nnn (R150). -/
def execLdI (nnn : BitVec 12) (s : State) : Host.Outcome State Fault Refusal :=
  .next (s.setIndex (zextAddr nnn))

/-- LD F, Vx (R151): memory is not accessed. -/
def execLdF (x : Reg) (s : State) : Host.Outcome State Fault Refusal :=
  .next (s.setIndex (glyphAddr (s.reg x)))

/-- ADD I, Vx (R152): a sum over 0xFFFF raises OutOfBounds with the 17-bit sum and leaves `I`; no flag. -/
def execAddI (x : Reg) (s : State) : Host.Outcome State Fault Refusal :=
  let sum := s.i.toNat + (s.reg x).toNat
  if 0xFFFF < sum then .next (s.raiseIn (.addI x) .outOfBounds (some sum))
  else .next (s.setIndex (BitVec.ofNat 16 sum))

end Sys2Proof.Machine
end

