-- ==== Sys2Proof/Machine/Keypad.lean ====
section
/-! DEFINITION. Keypad instructions: Ex9E, ExA1, Fx0A (46_keypad.md R170 to R172). They only read `KEYS`. -/

namespace Sys2Proof.Machine

/-- SKP Vx (R170). -/
def execSkp (x : Reg) (s : State) : Host.Outcome State Fault Refusal :=
  .next (s.skipIf (keyHeld s.keys (s.reg x)))

/-- SKNP Vx (R171). -/
def execSknp (x : Reg) (s : State) : Host.Outcome State Fault Refusal :=
  .next (s.skipIf (!keyHeld s.keys (s.reg x)))

/-- LD Vx, K (R172): with no key held `PC` goes back by 2, so that the next STEP executes this instruction again; else
the lowest held key is written. -/
def execLdVxK (x : Reg) (s : State) : Host.Outcome State Fault Refusal :=
  match lowestKey s.keys with
  | none => .next (s.jump (s.pc - 2))
  | some k => .next (s.setReg x (BitVec.ofNat 8 k))

end Sys2Proof.Machine
end

