-- ==== Sys2Proof/Machine/Skip.lean ====
section
/-! DEFINITION. Conditional skips: 3xnn, 4xnn, 5xy0, 9xy0 (41_skip.md R110 to R114). -/

namespace Sys2Proof.Machine

/-- SE Vx, nn (R110). -/
def execSeImm (x : Reg) (nn : Byte) (s : State) : Host.Outcome State Fault Refusal :=
  .next (s.skipIf (s.reg x == nn))

/-- SNE Vx, nn (R111). -/
def execSneImm (x : Reg) (nn : Byte) (s : State) : Host.Outcome State Fault Refusal :=
  .next (s.skipIf (s.reg x != nn))

/-- SE Vx, Vy (R112). -/
def execSeReg (x y : Reg) (s : State) : Host.Outcome State Fault Refusal :=
  .next (s.skipIf (s.reg x == s.reg y))

/-- SNE Vx, Vy (R113). -/
def execSneReg (x y : Reg) (s : State) : Host.Outcome State Fault Refusal :=
  .next (s.skipIf (s.reg x != s.reg y))

end Sys2Proof.Machine
end

