-- ==== Sys2Proof/Machine/Timer.lean ====
section
/-! DEFINITION. Timer instructions: Fx07, Fx15, Fx18 (47_timer.md R180 to R182). -/

namespace Sys2Proof.Machine

/-- LD Vx, DT (R180). -/
def execLdVxDt (x : Reg) (s : State) : Host.Outcome State Fault Refusal :=
  .next (s.setReg x s.dt)

/-- LD DT, Vx (R181). -/
def execLdDtVx (x : Reg) (s : State) : Host.Outcome State Fault Refusal :=
  .next { s with dt := s.reg x }

/-- LD ST, Vx (R182). -/
def execLdStVx (x : Reg) (s : State) : Host.Outcome State Fault Refusal :=
  .next { s with st := s.reg x }

end Sys2Proof.Machine
end

