-- ==== Sys2Proof/Machine/Transfer.lean ====
section
/-! DEFINITION. Memory transfer: Fx33, Fx55, Fx65 (48_memory_transfer.md R190 to R192). The range is checked whole before the first
access (20_memory.md R58); `I` is never changed. -/

namespace Sys2Proof.Machine

/-- LD B, Vx (R190): the decimal digits of `V[x]` to `I`, `I + 1`, `I + 2`. -/
def execLdB (x : Reg) (s : State) : Host.Outcome State Fault Refusal :=
  let base := s.i.toNat
  if rangeOk base 3 then .next (s.writeBytes base (bcdDigits (s.reg x)))
  else .next (s.raiseRange (.ldB x) base)

/-- LD [I], Vx (R191): V0 to Vx to `I` to `I + x`. -/
def execStoreRegs (x : Reg) (s : State) : Host.Outcome State Fault Refusal :=
  let base := s.i.toNat
  if rangeOk base (regCount x) then .next (s.writeBytes base (s.regsUpTo x))
  else .next (s.raiseRange (.storeRegs x) base)

/-- LD Vx, [I] (R192): V0 to Vx from `I` to `I + x`. -/
def execLoadRegs (x : Reg) (s : State) : Host.Outcome State Fault Refusal :=
  let base := s.i.toNat
  if rangeOk base (regCount x) then .next (s.loadRegsFrom base x)
  else .next (s.raiseRange (.loadRegs x) base)

end Sys2Proof.Machine
end

