-- ==== Sys2Proof/Machine/Step.lean ====
section
/-! DEFINITION. The event STEP: fetch, decode, execute (30_encoding.md R70), and how the host places an instruction
where STEP fetches next. -/

namespace Sys2Proof.Machine

/-- STEP. It is enabled only when `FAULT = none`; on a halted state this total function is the identity (R206, R232;
90_conflicts.md C11; log entry 2). Faults take the priority of R208: fetch, decode, execute. -/
def step (s : State) : Host.Outcome State Fault Refusal :=
  if s.halted then .next s
  else
    match s.fetch with
    | none => .next s.raiseFetch
    | some (w, t) =>
      match decode w with
      | .error _ => .next (t.raiseInvalid w)
      | .ok i => exec i t

/-- `s` with the instruction of a table row stored where STEP fetches next. STEP fetches at `PC` when the machine is not
halted and `PC` is at most 0xFFE, so on another state `FAULT` is cleared and `PC` is put at 0x200 as RESET puts it; this
stands for the load of a program (log entry 6). -/
def State.withFetchWord (s : State) (nbits w : Nat) : State :=
  let t : State := { s with fault := none, pc := if rangeOk s.pc.toNat 2 then s.pc else 0x200 }
  t.writeBytes t.pc.toNat (bytesOfWord (tableWord nbits w))

end Sys2Proof.Machine
end

