-- ==== Sys2Proof/Machine/Events.lean ====
section
/-! DEFINITION. The six events of the machine (00_scope.md R9; 60_exceptions.md sections 3 and 4; 70_reset_and_hazards.md
section 1) and what the host observes (10_state.md R39). Any sequence of events is a legal history (R231), so a claim about
the machine among its host is a claim about `runEvents`. -/

namespace Sys2Proof.Machine

/-- The events the host issues (R9). -/
inductive Event where
  /-- STEP: fetch, decode and execute one instruction (R70). -/
  | step
  /-- TICK: both timers count down (R220). -/
  | tick
  /-- PRESS(k), `k` from 0 to 15 (R222). -/
  | press (k : Nat)
  /-- RELEASE(k), `k` from 0 to 15 (R223). -/
  | release (k : Nat)
  /-- ACK_DISPLAY: the display-changed signal is consumed (R224). -/
  | ackDisplay
  /-- RESET(PROGRAM, MODE), PROGRAM of at most 3584 bytes (R240, R242). -/
  | reset (program : List Byte) (mode : Mode)
  deriving DecidableEq, Repr

/-- One timer's decrement: by 1, floored at 0 (R220). -/
def countDown (b : Byte) : Byte := if b = 0 then 0 else b - 1

/-- TICK (R220); nothing while halted (R206). -/
def State.tick (s : State) : State :=
  if s.halted then s else { s with dt := countDown s.dt, st := countDown s.st }

/-- PRESS(k) for a key code (R222); nothing while halted (R206). -/
def State.press (s : State) (k : Nat) : State :=
  if s.halted then s else { s with keys := s.keys ||| (1#16 <<< k) }

/-- RELEASE(k) for a key code (R223); nothing while halted (R206). -/
def State.release (s : State) (k : Nat) : State :=
  if s.halted then s else { s with keys := s.keys &&& ~~~(1#16 <<< k) }

/-- ACK_DISPLAY (R224); nothing while halted (R206). -/
def State.ackDisplay (s : State) : State := if s.halted then s else { s with dc := false }

/-- RESET(PROGRAM, MODE) (R240): every element of the table of R37, in any state, halted or not (R241). The parameters of
the machine stay, and so does the draw counter, which is no state of the CORE: a draw is fresh after RESET too (log entry
3). -/
def State.restart (s : State) (program : List Byte) (mode : Mode) : State :=
  State.writeBytes { State.reset with cfg := s.cfg, mode := mode, rndCount := s.rndCount } Config.programBase program

/-- What each event does. The host has no PRESS or RELEASE of a key over 15 and no RESET with more than 3584 bytes: those
are refused (R222, R223, R242). -/
def fire (e : Event) (s : State) : Host.Outcome State Fault Refusal :=
  match e with
  | .step => step s
  | .tick => .next s.tick
  | .press k => if Key.wellFormed k then .next (s.press k) else .refused (.keyOutOfRange k)
  | .release k => if Key.wellFormed k then .next (s.release k) else .refused (.keyOutOfRange k)
  | .ackDisplay => .next s.ackDisplay
  | .reset program mode =>
    if Program.wellFormed program then .next (s.restart program mode) else .refused (.programTooLong program.length)

/-- A sequence of events, each run to completion before the next (R231); it ends at the first refused event. -/
def runEvents : List Event → State → Host.Outcome State Fault Refusal
  | [], s => .next s
  | e :: es, s =>
    match fire e s with
    | .next t => runEvents es t
    | .fault r => .fault r
    | .refused r => .refused r

/-- Byte `k` of the packed framebuffer: row `k div 8`, columns `8 * (k mod 8)` on, the first in bit 7 (R30). -/
def FrameBuffer.packedByte (fb : FrameBuffer) (k : Nat) : Byte :=
  if h : k / 8 < 32 then fb[k / 8].extractLsb' (56 - 8 * (k % 8)) 8 else 0

/-- What the host may observe at any event boundary (R39). -/
structure Outputs where
  /-- `FB`, packed in 256 bytes (R30). -/
  fb : List Byte
  /-- `DC` (R34). -/
  dc : Bool
  /-- `ST` (R31). -/
  st : Byte
  /-- `FAULT` (R35). -/
  fault : Option FaultRecord
  deriving DecidableEq, Repr

/-- The outputs of a state (R39). -/
def State.outputs (s : State) : Outputs where
  fb := (List.range 256).map s.fb.packedByte
  dc := s.dc
  st := s.st
  fault := s.fault

end Sys2Proof.Machine
end

