-- ==== Sys2Proof/Safety.lean ====
section
/-! DEFINITION. The terms in which claims are made: what an instruction leaves unchanged, when it faults, the invariant of
the machine, the idle state. -/

namespace Sys2Proof.Machine

/-! ## Frames -/

/-- The elements of the state: the rows of R20, the parameters (R5) and the model's own draw counter. -/
inductive Element where
  | cfg | mem | regs | index | pc | stack | fb | dt | st | keys | mode | dc | fault | draws
  deriving DecidableEq, Repr

/-- Element `e` is the same in both states. Memory is compared byte by byte, through `readByte`. -/
def SameElement (e : Element) (s t : State) : Prop :=
  match e with
  | .cfg => t.cfg = s.cfg
  | .mem => ∀ a, t.readByte a = s.readByte a
  | .regs => ∀ r, t.reg r = s.reg r
  | .index => t.i = s.i
  | .pc => t.pc = s.pc
  | .stack => t.stack = s.stack
  | .fb => t.fb = s.fb
  | .dt => t.dt = s.dt
  | .st => t.st = s.st
  | .keys => t.keys = s.keys
  | .mode => t.mode = s.mode
  | .dc => t.dc = s.dc
  | .fault => t.fault = s.fault
  | .draws => t.rndCount = s.rndCount

/-- Every element but those of `changed` is the same in both states. -/
def UnchangedBut (changed : List Element) (s t : State) : Prop := ∀ e, e ∉ changed → SameElement e s t

/-- The elements an instruction may write when it executes, the column "written by" of R20 read by instruction, with the
`PC` effects of R23 (after the fetch advance) and the faults of R210. -/
def instrWrites : Instr → List Element
  | .cls => [.fb, .dc]
  | .ret => [.stack, .pc, .fault]
  | .jp _ => [.pc]
  | .call _ => [.stack, .pc, .fault]
  | .seImm _ _ => [.pc]
  | .sneImm _ _ => [.pc]
  | .seReg _ _ => [.pc]
  | .ldImm _ _ => [.regs]
  | .addImm _ _ => [.regs]
  | .ldReg _ _ => [.regs]
  | .orReg _ _ => [.regs]
  | .andReg _ _ => [.regs]
  | .xorReg _ _ => [.regs]
  | .addReg _ _ => [.regs]
  | .subReg _ _ => [.regs]
  | .shr _ _ => [.regs]
  | .subnReg _ _ => [.regs]
  | .shl _ _ => [.regs]
  | .sneReg _ _ => [.pc]
  | .ldI _ => [.index]
  | .jpV0 _ => [.pc]
  | .rnd _ _ => [.regs, .draws]
  | .drw _ _ _ => [.regs, .fb, .dc, .fault]
  | .skp _ => [.pc]
  | .sknp _ => [.pc]
  | .ldVxDt _ => [.regs]
  | .ldVxK _ => [.regs, .pc]
  | .ldDtVx _ => [.dt]
  | .ldStVx _ => [.st]
  | .addI _ => [.index, .fault]
  | .ldF _ => [.index]
  | .ldB _ => [.mem, .fault]
  | .storeRegs _ => [.mem, .fault]
  | .loadRegs _ => [.regs, .fault]

/-- The elements an event may write: the column "written by" of R20. -/
def eventWrites : Event → List Element
  | .step => [.mem, .regs, .index, .pc, .stack, .fb, .dt, .st, .dc, .fault, .draws]
  | .tick => [.dt, .st]
  | .press _ => [.keys]
  | .release _ => [.keys]
  | .ackDisplay => [.dc]
  | .reset _ _ => [.mem, .regs, .index, .pc, .stack, .fb, .dt, .st, .keys, .mode, .dc, .fault]

/-- Whether `r` is a register the instruction writes: its destination, and VF where it is written as a flag (R21, R22). -/
def destReg (i : Instr) (r : Reg) : Bool :=
  match i with
  | .ldImm x _ => r == x
  | .addImm x _ => r == x
  | .ldReg x _ => r == x
  | .orReg x _ => r == x
  | .andReg x _ => r == x
  | .xorReg x _ => r == x
  | .addReg x _ => r == x || r == Reg.vf
  | .subReg x _ => r == x || r == Reg.vf
  | .shr x _ => r == x || r == Reg.vf
  | .subnReg x _ => r == x || r == Reg.vf
  | .shl x _ => r == x || r == Reg.vf
  | .rnd x _ => r == x
  | .drw _ _ _ => r == Reg.vf
  | .ldVxDt x => r == x
  | .ldVxK x => r == x
  | .loadRegs x => decide (r ≤ x)
  | _ => false

/-- How many bytes the instruction stores, from the address in `I` on (R57); 0 for an instruction that stores nothing. -/
def storeLength : Instr → Nat
  | .ldB _ => 3
  | .storeRegs x => regCount x
  | _ => 0

/-- `a` is an address the instruction stores to, its base the one its meaning computes: `I` (R190, R191). -/
def storesTo (i : Instr) (s : State) (a : Nat) : Prop := s.i.toNat ≤ a ∧ a < s.i.toNat + storeLength i

/-! ## Faults -/

/-- When the execute stage of an instruction raises its one fault (R201, R202, R207, R210). -/
def faultCondition (i : Instr) (s : State) : Prop :=
  match i with
  | .ret => s.stack = []
  | .call _ => s.cfg.stackDepth = some s.stack.length
  | .drw _ _ n => 0 < n.val ∧ 4096 < s.i.toNat + n.val
  | .addI x => 0xFFFF < s.i.toNat + (s.reg x).toNat
  | .ldB _ => 4096 < s.i.toNat + 3
  | .storeRegs x => 4096 < s.i.toNat + x.val + 1
  | .loadRegs x => 4096 < s.i.toNat + x.val + 1
  | _ => False

/-- STEP fetches exactly instruction `i` at `s`: the machine is not halted, `PC` can be fetched from, and the word there is
that of `i` (R55, R70). -/
def State.fetches (s : State) (i : Instr) : Prop :=
  s.fault = none ∧ s.pc.toNat + 2 ≤ 4096 ∧ s.wordAt s.pc.toNat = encode i

/-- `s` after the fetch advance with a fault recorded: all that a STEP whose decoded instruction faults may write (R203,
R204). -/
def State.faulted (s : State) (kind : FaultKind) (word : Word) (addr : Option Nat) : State :=
  { s with pc := s.pc + 2, fault := some { kind := kind, word := some word, pc := s.pc + 2, addr := addr } }

/-- `s` with a fault recorded in the execution of `i`, `PC` as it stands: all that a faulting execute stage may write
(R203, R204). -/
def State.faultedIn (s : State) (i : Instr) (kind : FaultKind) (addr : Option Nat) : State :=
  { s with fault := some { kind := kind, word := some (encode i), pc := s.pc, addr := addr } }

/-- A fault record as R204 describes one: an address for OutOfBounds and for no other kind, and a word unless fetch raised
the fault, in which case the address is the record's `PC`. -/
def FaultRecord.wellFormed (r : FaultRecord) : Prop :=
  (r.addr.isSome = true ↔ r.kind = .outOfBounds) ∧
    (r.word = none → r.kind = .outOfBounds ∧ r.addr = some r.pc.toNat)

/-! ## Sprites -/

/-- The sprite bit that `Dxyn` draws on screen position (`row`, `col`) in state `s`, `false` outside the sprite: sprite row
`r` is the byte at `I + r`, sprite column `c` its bit `7 - c`, the corner at (`V[x] mod 64`, `V[y] mod 32`) (R160, R162). -/
def spriteBit (s : State) (x y : Reg) (n : Fin 16) (row col : Nat) : Bool :=
  let x0 := (s.reg x).toNat % 64
  let y0 := (s.reg y).toNat % 32
  decide (y0 ≤ row) && decide (row < y0 + n.val) && decide (x0 ≤ col) && decide (col < x0 + 8) &&
    (s.readByte (s.i.toNat + (row - y0))).getLsbD (7 - (col - x0))

/-- `Dxyn` turns a lit pixel off in state `s`: a sprite bit falls on a pixel that is on (R162, R163). -/
def spriteHits (s : State) (x y : Reg) (n : Fin 16) : Prop :=
  ∃ row < 32, ∃ col < 64, s.fb.pixel row col = true ∧ spriteBit s x y n row col = true

/-! ## Invariant and idle state -/

/-- What holds at RESET and after every event. Memory is canonical; the stack is within STACK_DEPTH (R28); `PC` is at most
0x10FE (R23) and a return address at most 0x1000 (R100); a fault record is as R204 says and its `pc` is `PC` as the
halted machine keeps it (R204, R206). -/
def Invariant (s : State) : Prop :=
  s.mem.wf s.image ∧
  (∀ d, s.cfg.stackDepth = some d → s.stack.length ≤ d) ∧
  s.pc.toNat ≤ 0x10FE ∧
  (∀ w ∈ s.stack, w.toNat ≤ 0x1000) ∧
  (∀ r, s.fault = some r → r.wellFormed ∧ r.pc = s.pc)

/-- The idle state of R250: not halted, and the word at `PC` is a jump to `PC`. -/
def State.idle (s : State) : Prop :=
  s.fault = none ∧ s.pc.toNat ≤ 0xFFE ∧ (s.wordAt s.pc.toNat).toNat = 0x1000 + s.pc.toNat

end Sys2Proof.Machine
end

