-- ==== Sys2Proof/Certificates/Slice0/Obligations.lean ====
section
/-! DEFINITION. The statements for the provers, one for each entry of OBLIGATIONS.json, in its order. Each docstring names
the rules of spec/ the statement formalises; D1 to D33 are the spec's own decisions (92_eei_decisions.md; log entry 20), named
where a clause rests on one. `UnchangedBut L s t` says that every element of the state outside `L` is the
same, memory byte by byte; the execute stage runs with `PC` already advanced by fetch (R70). -/

open Sys2Proof Sys2Proof.Machine

/-! ## Encoding (30_encoding.md) -/

/-- Decoding an encoded instruction gives it back, at every operand value the encoding admits (R71, R72, R74, R75). -/
def Obligations.DecodeOfEncodeIsTheInstruction : Prop :=
  ∀ i : Instr, decode (encode i) = .ok i

/-- A word that decodes is the word of the instruction it decodes to: no bit of a word is dropped, the unused `y` of the
shifts included (R71, R73, R74). -/
def Obligations.EncodeOfDecodeIsTheWord : Prop :=
  ∀ (w : Word) (i : Instr), decode w = .ok i → encode i = w

/-- The decoder is the opcode map: 34 rows; a word decodes to an instruction of the row it matches, and every word that
matches a row decodes to an instruction of that row (R75). -/
def Obligations.DecodeFollowsOpcodeMap : Prop :=
  opcodeMap.length = 34 ∧
  (∀ (w : Word) (i : Instr), decode w = .ok i →
    opcodeRow i ∈ opcodeMap ∧ w &&& (opcodeRow i).mask = (opcodeRow i).bits) ∧
  (∀ (w : Word), ∀ r ∈ opcodeMap, w &&& r.mask = r.bits → ∃ i, decode w = .ok i ∧ opcodeRow i = r)

/-- The illegal words are exactly those of the table of R76, and each is refused by name with the raw word (R74, R76; that
unmatched words of groups 0, 5 and 9 are illegal is D23). -/
def Obligations.IllegalWordsAreThoseListed : Prop :=
  ∀ w : Word, decode w = .error (.invalidOpcode w) ↔
    (fieldOp w = 0x0 ∧ fieldNNN w ≠ 0x0E0 ∧ fieldNNN w ≠ 0x0EE) ∨
    (fieldOp w = 0x5 ∧ fieldN w ≠ 0) ∨
    (fieldOp w = 0x8 ∧ fieldN w ∈ [0x8, 0x9, 0xA, 0xB, 0xC, 0xD, 0xF]) ∨
    (fieldOp w = 0x9 ∧ fieldN w ≠ 0) ∨
    (fieldOp w = 0xE ∧ fieldNN w ∉ [0x9E, 0xA1]) ∨
    (fieldOp w = 0xF ∧ fieldNN w ∉ [0x07, 0x0A, 0x15, 0x18, 0x1E, 0x29, 0x33, 0x55, 0x65])

/-- A sanity statement: some bytes of the test vectors, most significant first, decode to the instructions they stand for
(R54, R71, R75). -/
def Obligations.SampleBytesDecode : Prop :=
  decodeBytes [0x12, 0x34] = .ok (.jp 0x234) ∧
  decodeBytes [0x3A, 0x42] = .ok (.seImm 0xA 0x42) ∧
  decodeBytes [0x81, 0x24] = .ok (.addReg 1 2) ∧
  decodeBytes [0xB3, 0x45] = .ok (.jpV0 0x345) ∧
  decodeBytes [0xDF, 0x01] = .ok (.drw 0xF 0 1) ∧
  decodeBytes [0xE2, 0xA1] = .ok (.sknp 2) ∧
  decodeBytes [0xF3, 0x55] = .ok (.storeRegs 3) ∧
  decodeBytes [0x51, 0x21] = .error (.invalidOpcode 0x5121)

/-! ## STEP, faults, halting (30_encoding.md R70; 60_exceptions.md) -/

/-- A STEP runs the decoded instruction: not halted and with two bytes to fetch, STEP is the execution of what the bytes at
`PC` decode to, the byte at the lower address first, with `PC` advanced by 2; nothing else surrounds it (R54, R55, R70). -/
def Obligations.StepExecutesTheDecodedInstruction : Prop :=
  ∀ (s : State) (i : Instr), s.fault = none → s.pc.toNat + 2 ≤ 4096 →
    decode (s.readByte s.pc.toNat ++ s.readByte (s.pc.toNat + 1)) = .ok i →
    step s = exec i { s with pc := s.pc + 2 }

/-- InvalidOpcode, code 1: raised by STEP exactly when the fetched word matches no row of the opcode map; the record holds the
raw word and the advanced `PC`, and nothing but `PC` and `FAULT` is written (R200; the record's layout is D7). -/
def Obligations.UnmatchedWordRaisesInvalidOpcode : Prop :=
  FaultKind.invalidOpcode.code = 1 ∧
  (∀ s : State, s.fault = none → s.pc.toNat + 2 ≤ 4096 →
    (∀ r ∈ opcodeMap, s.wordAt s.pc.toNat &&& r.mask ≠ r.bits) →
    step s = .next (s.faulted .invalidOpcode (s.wordAt s.pc.toNat) none)) ∧
  (∀ (s t : State) (f : FaultRecord), s.fault = none → step s = .next t → t.fault = some f → f.kind = .invalidOpcode →
    s.pc.toNat + 2 ≤ 4096 ∧ ∀ r ∈ opcodeMap, s.wordAt s.pc.toNat &&& r.mask ≠ r.bits)

/-- StackUnderflow, code 2, and StackOverflow, code 4: when each is raised, by which instruction alone, what is recorded, and
that nothing but `PC` and `FAULT` is written; with STACK_DEPTH unbounded a call never faults; the default STACK_DEPTH is 16
(R201, R202; StackOverflow is D9, the record's layout D7). -/
def Obligations.CallStackFaults : Prop :=
  FaultKind.stackUnderflow.code = 2 ∧ FaultKind.stackOverflow.code = 4 ∧ Config.standard.stackDepth = some 16 ∧
  (∀ s : State, s.fetches .ret → s.stack = [] → step s = .next (s.faulted .stackUnderflow 0x00EE none)) ∧
  (∀ (s : State) (nnn : BitVec 12), s.fetches (.call nnn) → s.cfg.stackDepth = some s.stack.length →
    step s = .next (s.faulted .stackOverflow (formatA 0x2 nnn) none)) ∧
  (∀ (s : State) (nnn : BitVec 12), s.fetches (.call nnn) → s.cfg.stackDepth = none →
    ∃ t, step s = .next t ∧ t.fault = none) ∧
  (∀ (s t : State) (r : FaultRecord), s.fault = none → step s = .next t → t.fault = some r →
    (r.kind = .stackUnderflow → s.fetches .ret ∧ s.stack = []) ∧
    (r.kind = .stackOverflow → ∃ nnn, s.fetches (.call nnn) ∧ s.cfg.stackDepth = some s.stack.length))

/-- OutOfBounds, code 3: each row of the table of R207 with its condition, word, `PC` and address, nothing but `PC` (when
fetch succeeded) and `FAULT` written; and nothing else raises it (R207; the spec's own decisions D4 and D5, the record's
layout D7; that a faulting STEP writes nothing but `PC` and `FAULT`, and a fetch fault not even `PC`, is its decision D6: R55,
R58, R203, log entry 1). -/
def Obligations.OutOfBoundsIsRaisedExactlyAsTabulated : Prop :=
  FaultKind.outOfBounds.code = 3 ∧
  (∀ s : State, s.fault = none → 4096 < s.pc.toNat + 2 →
    step s = .next { s with fault := some ⟨.outOfBounds, none, s.pc, some s.pc.toNat⟩ }) ∧
  (∀ (s : State) (x y : Reg) (n : Fin 16), s.fetches (.drw x y n) → 0 < n.val → 4096 < s.i.toNat + n.val →
    step s = .next (s.faulted .outOfBounds (encode (.drw x y n)) (some (max s.i.toNat 4096)))) ∧
  (∀ (s : State) (x : Reg), s.fetches (.ldB x) → 4096 < s.i.toNat + 3 →
    step s = .next (s.faulted .outOfBounds (encode (.ldB x)) (some (max s.i.toNat 4096)))) ∧
  (∀ (s : State) (x : Reg), s.fetches (.storeRegs x) → 4096 < s.i.toNat + x.val + 1 →
    step s = .next (s.faulted .outOfBounds (encode (.storeRegs x)) (some (max s.i.toNat 4096)))) ∧
  (∀ (s : State) (x : Reg), s.fetches (.loadRegs x) → 4096 < s.i.toNat + x.val + 1 →
    step s = .next (s.faulted .outOfBounds (encode (.loadRegs x)) (some (max s.i.toNat 4096)))) ∧
  (∀ (s : State) (x : Reg), s.fetches (.addI x) → 0xFFFF < s.i.toNat + (s.reg x).toNat →
    step s = .next (s.faulted .outOfBounds (encode (.addI x)) (some (s.i.toNat + (s.reg x).toNat)))) ∧
  (∀ (s t : State) (r : FaultRecord), s.fault = none → step s = .next t → t.fault = some r → r.kind = .outOfBounds →
    4096 < s.pc.toNat + 2 ∨
    (∃ x y n, s.fetches (.drw x y n) ∧ 0 < n.val ∧ 4096 < s.i.toNat + n.val) ∨
    (∃ x, s.fetches (.ldB x) ∧ 4096 < s.i.toNat + 3) ∨
    (∃ x, s.fetches (.storeRegs x) ∧ 4096 < s.i.toNat + x.val + 1) ∨
    (∃ x, s.fetches (.loadRegs x) ∧ 4096 < s.i.toNat + x.val + 1) ∨
    (∃ x, s.fetches (.addI x) ∧ 0xFFFF < s.i.toNat + (s.reg x).toNat))

/-- For every instruction: its execution raises a fault exactly on the condition R210 and its own rule name, and a faulting
execution writes nothing but `FAULT`, whose record holds the instruction's word and `PC` (R203, R204, R210; no partial effect
is D6, the record D7, the conditions of Fx1E and 2nnn D5 and D9; log entry 1). -/
def Obligations.InstructionFaultsExactlyAsListed : Prop :=
  ∀ (i : Instr) (s t : State), s.fault = none → exec i s = .next t →
    (t.fault ≠ none ↔ faultCondition i s) ∧
    (∀ r, t.fault = some r → r.word = some (encode i) ∧ r.pc = s.pc ∧ UnchangedBut [.fault] s t)

/-- Every STEP answers a next state, in every state. That a fault is a next state follows R203 to R205 and D6 to D8 (log entry
1). That STEP on a halted machine answers one too is the model's choice (log entry 2): R206 says that STEP is not enabled
there, and R232 allows a total step function. What the next state holds is said by the statements on faults and halting. -/
def Obligations.StepAlwaysAnswersANextState : Prop :=
  ∀ s : State, ∃ t, step s = .next t

/-- While `FAULT` is set no event but RESET changes anything, and RESET leaves the halted state (R206, R209; D8). That STEP,
which is not enabled there, is the identity is the reading R232 and 90_conflicts.md C11 offer (log entry 2). -/
def Obligations.HaltedMachineIsFrozenUntilReset : Prop :=
  (∀ (s t : State) (e : Event), s.fault ≠ none → (∀ p m, e ≠ .reset p m) → fire e s = .next t → t = s) ∧
  (∀ (s : State) (p : List Byte) (m : Mode), s.fault ≠ none → p.length ≤ 3584 →
    ∃ t, fire (.reset p m) s = .next t ∧ t.fault = none)

/-! ## RESET and the other events (60_exceptions.md section 3; 70_reset_and_hazards.md section 1) -/

/-- RESET(PROGRAM, MODE), from any state: memory is zeros, then FONT at 0x050, then PROGRAM at 0x200, and every other element
has its reset value; a PROGRAM of more than 3584 bytes is refused (R240, R242; the values of V, I, STACK, FB, DT, ST, KEYS,
DC and FAULT are D10, the refusal D11). That the parameters stay as they are is the model's place for them (log entry 4). -/
def Obligations.ResetConstructsTheState : Prop :=
  (∀ (s : State) (p : List Byte) (m : Mode), p.length ≤ 3584 →
    ∃ t, fire (.reset p m) s = .next t ∧
      (∀ a < 4096, t.readByte a =
        if 0x200 ≤ a ∧ a < 0x200 + p.length then p.getD (a - 0x200) 0
        else if 0x050 ≤ a ∧ a < 0x0A0 then s.cfg.font.toList.getD (a - 0x050) 0
        else 0) ∧
      t.pc = 0x0200 ∧ t.mode = m ∧ (∀ r, t.reg r = 0) ∧ t.i = 0 ∧ t.stack = [] ∧
      (∀ row < 32, ∀ col < 64, t.fb.pixel row col = false) ∧
      t.dt = 0 ∧ t.st = 0 ∧ t.keys = 0 ∧ t.dc = false ∧ t.fault = none ∧ t.cfg = s.cfg) ∧
  (∀ (s : State) (p : List Byte) (m : Mode), 3584 < p.length →
    fire (.reset p m) s = .refused (.programTooLong p.length))

/-- `State.reset` is RESET of the empty PROGRAM in classic mode, from any state of a machine with the default parameters and
no draw made; classic mode and the empty PROGRAM are the model's choice (log entry 5), the values of V, I, DT, ST, STACK, FB,
KEYS, DC and FAULT those of R37, the spec's decision D10 (log entry 7). STACK_DEPTH 16 is no reset value of R37: it is the
default of the parameter, the spec's decision D9 (R28), and that `State.reset` holds it is the model's (log entry 4). The draw
counter is the model's own (log entry 3). -/
def Obligations.ResetStateIsResetOfTheEmptyProgram : Prop :=
  (∀ s : State, s.cfg = Config.standard → s.rndCount = 0 → fire (.reset [] .classic) s = .next State.reset) ∧
  State.reset.cfg.stackDepth = some 16 ∧ State.reset.pc = 0x200 ∧ State.reset.mode = .classic ∧
  (∀ r, State.reset.reg r = 0) ∧ State.reset.i = 0 ∧ State.reset.stack = [] ∧ State.reset.dt = 0 ∧ State.reset.st = 0 ∧
  State.reset.keys = 0 ∧ State.reset.dc = false ∧ State.reset.fault = none ∧
  (∀ row < 32, ∀ col < 64, State.reset.fb.pixel row col = false)

/-- TICK: both counters go down by 1 and stop at 0; nothing else is written; nothing happens while halted (R220; D33, D8). -/
def Obligations.TickCountsBothTimersDown : Prop :=
  (∀ s : State, s.fault = none → ∃ t, fire .tick s = .next t ∧
    t.dt.toNat = s.dt.toNat - 1 ∧ t.st.toNat = s.st.toNat - 1 ∧ UnchangedBut [.dt, .st] s t) ∧
  (∀ s : State, s.fault ≠ none → fire .tick s = .next s)

/-- `k` TICKs take `k` from each timer, down to 0 and no further: a value `v` reaches 0 after exactly `v` TICKs (R31, R181,
R220; D33). -/
def Obligations.TimersReachZeroAfterTheirValueInTicks : Prop :=
  ∀ (s : State) (k : Nat), s.fault = none → ∃ t, runEvents (List.replicate k .tick) s = .next t ∧
    t.dt.toNat = s.dt.toNat - k ∧ t.st.toNat = s.st.toNat - k ∧ UnchangedBut [.dt, .st] s t

/-- PRESS(k) adds key `k` and RELEASE(k) takes it out, each leaving every other key and all else alone; nothing happens
while halted; a key over 15 is refused (R222, R223; D8, D26). -/
def Obligations.PressAndReleaseChangeOneKey : Prop :=
  (∀ (s : State) (k : Nat), k ≤ 15 → s.fault = none → ∃ t, fire (.press k) s = .next t ∧
    (∀ j < 16, t.keys.getLsbD j = (s.keys.getLsbD j || decide (j = k))) ∧ UnchangedBut [.keys] s t) ∧
  (∀ (s : State) (k : Nat), k ≤ 15 → s.fault = none → ∃ t, fire (.release k) s = .next t ∧
    (∀ j < 16, t.keys.getLsbD j = (s.keys.getLsbD j && !decide (j = k))) ∧ UnchangedBut [.keys] s t) ∧
  (∀ (s : State) (k : Nat), k ≤ 15 → s.fault ≠ none → fire (.press k) s = .next s ∧ fire (.release k) s = .next s) ∧
  (∀ (s : State) (k : Nat), 15 < k →
    fire (.press k) s = .refused (.keyOutOfRange k) ∧ fire (.release k) s = .refused (.keyOutOfRange k))

/-- ACK_DISPLAY clears the display-changed flag and nothing else, and does nothing while halted (R34, R224; D8, D14). -/
def Obligations.AckDisplayClearsTheFlag : Prop :=
  (∀ s : State, s.fault = none → ∃ t, fire .ackDisplay s = .next t ∧ t.dc = false ∧ UnchangedBut [.dc] s t) ∧
  (∀ s : State, s.fault ≠ none → fire .ackDisplay s = .next s)

/-- The column "written by" of R20: every event leaves every element it is not listed against as it was. So MODE is written
by RESET alone (R33), KEYS by PRESS, RELEASE and RESET (R32), and memory by RESET and STEP (R24). Two elements are the model's
own and no row of R20: the parameters, which no event writes (log entry 4), and the draw counter, which STEP alone may write
and RESET leaves as it is (log entry 3, a design choice). -/
def Obligations.EventsWriteOnlyWhatTheTableLists : Prop :=
  ∀ (e : Event) (s t : State), fire e s = .next t → UnchangedBut (eventWrites e) s t

/-! ## Control transfer (40_flow.md) -/

/-- 1nnn: `PC` is the zero-extended `nnn`, whatever it is; nothing else changes (R101; no check on assignment is D3). -/
def Obligations.JumpSetsThePc : Prop :=
  ∀ (s : State) (nnn : BitVec 12), ∃ t, exec (.jp nnn) s = .next t ∧ t.pc.toNat = nnn.toNat ∧ UnchangedBut [.pc] s t

/-- 00EE on a stack with top `w`: `PC` is `w`, as it is, and the stack is without it; nothing else changes (R28, R100). -/
def Obligations.ReturnPopsTheTop : Prop :=
  ∀ (s : State) (rest : List Word) (w : Word), s.stack = rest ++ [w] →
    ∃ t, exec .ret s = .next t ∧ t.pc = w ∧ t.stack = rest ∧ UnchangedBut [.pc, .stack] s t

/-- 2nnn below STACK_DEPTH: the advanced `PC` is pushed and `PC` is `nnn`; nothing else changes (R28, R102; the depth is D9). -/
def Obligations.CallPushesTheReturnAddress : Prop :=
  ∀ (s : State) (nnn : BitVec 12), s.cfg.stackDepth ≠ some s.stack.length →
    ∃ t, exec (.call nnn) s = .next t ∧ t.stack = s.stack ++ [s.pc] ∧ t.pc.toNat = nnn.toNat ∧
      UnchangedBut [.pc, .stack] s t

/-- A return undoes a call: whatever address the return executes at, it leaves exactly the state in which the call began to
execute, `PC` at the instruction after the call (R100, R102; R104 is derived; the depth is D9). -/
def Obligations.ReturnUndoesCall : Prop :=
  ∀ (s : State) (nnn : BitVec 12) (p : Word), s.cfg.stackDepth ≠ some s.stack.length →
    ∃ t, exec (.call nnn) s = .next t ∧ exec .ret { t with pc := p } = .next s

/-- Bnnn: `nnn + V0` in classic mode, the low byte of `nnn` plus the register of its high nibble in extended mode; the sum
is not reduced and nothing else changes (R103; extended mode by the spec's decision D22). -/
def Obligations.JumpWithOffsetDependsOnMode : Prop :=
  ∀ (s : State) (nnn : BitVec 12), ∃ t, exec (.jpV0 nnn) s = .next t ∧ UnchangedBut [.pc] s t ∧
    (s.mode = .classic → t.pc.toNat = nnn.toNat + (s.reg 0).toNat) ∧
    (s.mode = .extended → t.pc.toNat = nnn.toNat % 256 + (s.reg (Fin.ofNat 16 (nnn.toNat / 256))).toNat)

/-! ## Skips (41_skip.md; 46_keypad.md) -/

/-- 3xnn and 4xnn, their encoding and effect in the execute stage: `PC`, which fetch has already advanced by 2 (R70), goes 2
further exactly when `V[x]` equals (3) or differs from (4) `nn`; nothing else changes (R110, R111). -/
def Obligations.SkipComparesWithImmediate : Prop :=
  ∀ (s : State) (x : Reg) (nn : Byte),
    decode (formatI 0x3 x nn) = .ok (.seImm x nn) ∧ decode (formatI 0x4 x nn) = .ok (.sneImm x nn) ∧
    (∃ t, exec (.seImm x nn) s = .next t ∧ t.pc = (if s.reg x = nn then s.pc + 2 else s.pc) ∧
      UnchangedBut [.pc] s t) ∧
    (∃ t, exec (.sneImm x nn) s = .next t ∧ t.pc = (if s.reg x ≠ nn then s.pc + 2 else s.pc) ∧
      UnchangedBut [.pc] s t)

/-- 5xy0 and 9xy0, their encoding and effect: `PC` goes 2 further exactly when the registers are equal (5) or differ (9);
with another low nibble the word is illegal; nothing else changes (R112, R113). -/
def Obligations.SkipComparesRegisters : Prop :=
  ∀ (s : State) (x y : Reg),
    decode (formatR 0x5 x y 0) = .ok (.seReg x y) ∧ decode (formatR 0x9 x y 0) = .ok (.sneReg x y) ∧
    (∀ n : BitVec 4, n ≠ 0 → decode (formatR 0x5 x y n) = .error (.invalidOpcode (formatR 0x5 x y n)) ∧
      decode (formatR 0x9 x y n) = .error (.invalidOpcode (formatR 0x9 x y n))) ∧
    (∃ t, exec (.seReg x y) s = .next t ∧ t.pc = (if s.reg x = s.reg y then s.pc + 2 else s.pc) ∧
      UnchangedBut [.pc] s t) ∧
    (∃ t, exec (.sneReg x y) s = .next t ∧ t.pc = (if s.reg x ≠ s.reg y then s.pc + 2 else s.pc) ∧
      UnchangedBut [.pc] s t)

/-- Ex9E and ExA1, their encoding and effect: the key is the whole byte `V[x]`, held when it is at most 15 and its bit is
set, never held from 16 on; `PC` goes 2 further exactly when it is held (9E) or not (A1); nothing else changes (R170,
R171; the whole byte by the spec's decision D19). -/
def Obligations.SkipTestsAKey : Prop :=
  ∀ (s : State) (x : Reg),
    decode (formatI 0xE x 0x9E) = .ok (.skp x) ∧ decode (formatI 0xE x 0xA1) = .ok (.sknp x) ∧
    (∃ t, exec (.skp x) s = .next t ∧ UnchangedBut [.pc] s t ∧
      t.pc = (if (s.reg x).toNat ≤ 15 ∧ s.keys.getLsbD (s.reg x).toNat = true then s.pc + 2 else s.pc)) ∧
    (∃ t, exec (.sknp x) s = .next t ∧ UnchangedBut [.pc] s t ∧
      t.pc = (if (s.reg x).toNat ≤ 15 ∧ s.keys.getLsbD (s.reg x).toNat = true then s.pc else s.pc + 2))

/-! ## Immediates and random (42_immediate.md) -/

/-- 6xnn, its encoding and effect: `V[x]` is `nn`, every other register and all else as before (R120). -/
def Obligations.LoadImmediateSetsTheRegister : Prop :=
  ∀ (s : State) (x : Reg) (nn : Byte), decode (formatI 0x6 x nn) = .ok (.ldImm x nn) ∧
    ∃ t, exec (.ldImm x nn) s = .next t ∧ (∀ r, t.reg r = if r = x then nn else s.reg r) ∧ UnchangedBut [.regs] s t

/-- 7xnn, its encoding and effect: `V[x]` is the sum modulo 256, every other register (VF too, unless it is `V[x]`) and all
else as before (R121). -/
def Obligations.AddImmediateWrapsWithoutFlag : Prop :=
  ∀ (s : State) (x : Reg) (nn : Byte), decode (formatI 0x7 x nn) = .ok (.addImm x nn) ∧
    ∃ t, exec (.addImm x nn) s = .next t ∧ (t.reg x).toNat = ((s.reg x).toNat + nn.toNat) % 256 ∧
      (∀ r, r ≠ x → t.reg r = s.reg r) ∧ UnchangedBut [.regs] s t

/-- Cxnn: `V[x]` is the next draw AND `nn`, so it has no bit that `nn` lacks; every other register as before; one draw is
used up. Nothing is said of the draw's value (R122; the draw is D13). Numbering the draws by a counter is the model's choice
(log entry 3). -/
def Obligations.RandomByteIsMasked : Prop :=
  ∀ (s : State) (x : Reg) (nn : Byte), ∃ t, exec (.rnd x nn) s = .next t ∧
    t.reg x = Config.drawRnd s.rndCount &&& nn ∧ t.reg x &&& ~~~nn = 0 ∧ t.rndCount = s.rndCount + 1 ∧
    (∀ r, r ≠ x → t.reg r = s.reg r) ∧ UnchangedBut [.regs, .draws] s t

/-! ## Register-register instructions (43_alu.md) -/

/-- 8xy0 to 8xy3, their encoding and effect: `V[x]` is the copy, or, and, exclusive or; every other register, VF among them
unless it is `V[x]`, and all else as before (R131, R132, R133, R134; that OR, AND and XOR leave VF is the spec's
decision D18). -/
def Obligations.CopyAndLogicWriteNoFlag : Prop :=
  ∀ (s : State) (x y : Reg),
    decode (formatR 0x8 x y 0) = .ok (.ldReg x y) ∧ decode (formatR 0x8 x y 1) = .ok (.orReg x y) ∧
    decode (formatR 0x8 x y 2) = .ok (.andReg x y) ∧ decode (formatR 0x8 x y 3) = .ok (.xorReg x y) ∧
    (∃ t, exec (.ldReg x y) s = .next t ∧ (∀ r, t.reg r = if r = x then s.reg y else s.reg r) ∧
      UnchangedBut [.regs] s t) ∧
    (∃ t, exec (.orReg x y) s = .next t ∧ (∀ r, t.reg r = if r = x then s.reg x ||| s.reg y else s.reg r) ∧
      UnchangedBut [.regs] s t) ∧
    (∃ t, exec (.andReg x y) s = .next t ∧ (∀ r, t.reg r = if r = x then s.reg x &&& s.reg y else s.reg r) ∧
      UnchangedBut [.regs] s t) ∧
    (∃ t, exec (.xorReg x y) s = .next t ∧ (∀ r, t.reg r = if r = x then s.reg x ^^^ s.reg y else s.reg r) ∧
      UnchangedBut [.regs] s t)

/-- 8xy4, its encoding and effect: VF is 1 when the sum exceeds 255, else 0, also when `x` is 15; otherwise `V[x]` is the sum
modulo 256; every other register and all else as before (R135; the flag written last is D17). -/
def Obligations.AddSetsCarry : Prop :=
  ∀ (s : State) (x y : Reg), decode (formatR 0x8 x y 4) = .ok (.addReg x y) ∧
    ∃ t, exec (.addReg x y) s = .next t ∧
      t.reg Reg.vf = (if (s.reg x).toNat + (s.reg y).toNat > 255 then 1 else 0) ∧
      (x ≠ Reg.vf → (t.reg x).toNat = ((s.reg x).toNat + (s.reg y).toNat) % 256) ∧
      (∀ r, r ≠ x → r ≠ Reg.vf → t.reg r = s.reg r) ∧ UnchangedBut [.regs] s t

/-- 8xy5 and 8xy7, their encoding and effect: the difference modulo 256 and VF = 1 exactly when there is no borrow, equal
operands included; VF is the flag also when `x` is 15; every other register and all else as before (R136, R138; the flag
written last is D17). -/
def Obligations.SubtractSetsNotBorrow : Prop :=
  ∀ (s : State) (x y : Reg),
    decode (formatR 0x8 x y 5) = .ok (.subReg x y) ∧ decode (formatR 0x8 x y 7) = .ok (.subnReg x y) ∧
    (∃ t, exec (.subReg x y) s = .next t ∧
      t.reg Reg.vf = (if (s.reg y).toNat ≤ (s.reg x).toNat then 1 else 0) ∧
      (x ≠ Reg.vf → (t.reg x).toNat = ((s.reg x).toNat + 256 - (s.reg y).toNat) % 256) ∧
      (∀ r, r ≠ x → r ≠ Reg.vf → t.reg r = s.reg r) ∧ UnchangedBut [.regs] s t) ∧
    (∃ t, exec (.subnReg x y) s = .next t ∧
      t.reg Reg.vf = (if (s.reg x).toNat ≤ (s.reg y).toNat then 1 else 0) ∧
      (x ≠ Reg.vf → (t.reg x).toNat = ((s.reg y).toNat + 256 - (s.reg x).toNat) % 256) ∧
      (∀ r, r ≠ x → r ≠ Reg.vf → t.reg r = s.reg r) ∧ UnchangedBut [.regs] s t)

/-- 8xy6 and 8xyE, their encoding and effect, the same for every `y` and in both modes: `V[x]` halved, or doubled modulo 256,
and VF the bit shifted out, also when `x` is 15; every other register, that of `y` among them, and all else as before (R137,
R139; the flag written last is D17). -/
def Obligations.ShiftsMoveOneBitIntoVf : Prop :=
  ∀ (s : State) (x y : Reg),
    decode (formatR 0x8 x y 6) = .ok (.shr x y) ∧ decode (formatR 0x8 x y 0xE) = .ok (.shl x y) ∧
    (∃ t, exec (.shr x y) s = .next t ∧ (t.reg Reg.vf).toNat = (s.reg x).toNat % 2 ∧
      (x ≠ Reg.vf → (t.reg x).toNat = (s.reg x).toNat / 2) ∧
      (∀ r, r ≠ x → r ≠ Reg.vf → t.reg r = s.reg r) ∧ UnchangedBut [.regs] s t) ∧
    (∃ t, exec (.shl x y) s = .next t ∧ (t.reg Reg.vf).toNat = (s.reg x).toNat / 128 ∧
      (x ≠ Reg.vf → (t.reg x).toNat = 2 * (s.reg x).toNat % 256) ∧
      (∀ r, r ≠ x → r ≠ Reg.vf → t.reg r = s.reg r) ∧ UnchangedBut [.regs] s t)

/-- VF as a flag: the six instructions that write it leave 0 or 1 in it whatever their operands (unless Dxyn faults), and no
other instruction changes VF unless it is that instruction's destination register (R22, R130; D17, D18). -/
def Obligations.OnlyFlagInstructionsWriteVf : Prop :=
  (∀ (s t : State) (i : Instr), s.fault = none → exec i s = .next t → t.fault = none →
    ((∃ x y, i = .addReg x y ∨ i = .subReg x y ∨ i = .shr x y ∨ i = .subnReg x y ∨ i = .shl x y) ∨
      ∃ x y n, i = .drw x y n) →
    t.reg Reg.vf = 0 ∨ t.reg Reg.vf = 1) ∧
  (∀ (s t : State) (i : Instr), exec i s = .next t → destReg i Reg.vf = false → t.reg Reg.vf = s.reg Reg.vf)

/-! ## Index register (44_index.md) -/

/-- Annn and Fx29, their encoding and effect: `I` is `nnn` zero-extended, or 0x050 + 5 times the whole byte `V[x]`; nothing
else changes (R150, R151; the whole byte in Fx29 is the spec's decision D21). -/
def Obligations.LoadIndexAndGlyphAddress : Prop :=
  (∀ (s : State) (nnn : BitVec 12), decode (formatA 0xA nnn) = .ok (.ldI nnn) ∧
    ∃ t, exec (.ldI nnn) s = .next t ∧ t.i.toNat = nnn.toNat ∧ UnchangedBut [.index] s t) ∧
  (∀ (s : State) (x : Reg), decode (formatI 0xF x 0x29) = .ok (.ldF x) ∧
    ∃ t, exec (.ldF x) s = .next t ∧ t.i.toNat = 0x050 + 5 * (s.reg x).toNat ∧ UnchangedBut [.index] s t)

/-- Fx1E with a sum that fits 16 bits: `I` is the sum, also past 0xFFF; VF and all else as before (R152; D5, D18). -/
def Obligations.AddToIndexIsExact : Prop :=
  ∀ (s : State) (x : Reg), s.i.toNat + (s.reg x).toNat ≤ 0xFFFF →
    ∃ t, exec (.addI x) s = .next t ∧ t.i.toNat = s.i.toNat + (s.reg x).toNat ∧ UnchangedBut [.index] s t

/-! ## Display (45_display.md) -/

/-- 00E0, its encoding and effect: every pixel is off and `DC` is set, whatever they were; nothing else changes (R161; `DC` by
the spec's decision D14). -/
def Obligations.ClearTurnsEveryPixelOff : Prop :=
  decode 0x00E0 = .ok .cls ∧
  ∀ s : State, ∃ t, exec .cls s = .next t ∧ (∀ row < 32, ∀ col < 64, t.fb.pixel row col = false) ∧ t.dc = true ∧
    UnchangedBut [.fb, .dc] s t

/-- Dxyn, its encoding and effect, pixel by pixel: each pixel of the screen is exclusive-ored with the sprite bit that falls
on it, so that what lies past the right or bottom edge is not drawn; VF is 1 exactly when a lit pixel was turned off, else 0;
`DC` is set; every other register and all else as before; and the OutOfBounds fault, raised before any write, when the `n`
bytes at `I` are not all in memory (R160, R162; the spec's own decisions: the sprite's bit order D15, the bounds of clipped
rows D16, `DC` D14, the fault without partial effect D6 and its record D7, log entry 1). -/
def Obligations.DrawXorsTheClippedSprite : Prop :=
  (∀ x y n, decode (formatR 0xD x y (BitVec.ofFin n)) = .ok (.drw x y n)) ∧
  (∀ (s : State) (x y : Reg) (n : Fin 16), n.val = 0 ∨ s.i.toNat + n.val ≤ 4096 →
    ∃ t, exec (.drw x y n) s = .next t ∧
      (∀ row < 32, ∀ col < 64, t.fb.pixel row col = (s.fb.pixel row col ^^ spriteBit s x y n row col)) ∧
      (spriteHits s x y n → t.reg Reg.vf = 1) ∧ (¬ spriteHits s x y n → t.reg Reg.vf = 0) ∧
      t.dc = true ∧ (∀ r, r ≠ Reg.vf → t.reg r = s.reg r) ∧ UnchangedBut [.regs, .fb, .dc] s t) ∧
  (∀ (s : State) (x y : Reg) (n : Fin 16), 0 < n.val → 4096 < s.i.toNat + n.val →
    exec (.drw x y n) s = .next (s.faultedIn (.drw x y n) .outOfBounds (some (max s.i.toNat 4096))))

/-- Drawing a sprite twice at one place restores the framebuffer, and the second draw's VF is 1 exactly when the sprite has a
1 bit on a screen pixel that was off before the first draw (R162). R163 says this last without "that was off": that holds
where the sprite meets no lit pixel, and fails where all its 1 bits do; the pseudocode of R162 is followed (log entry 21).
`x` and `y` are not VF, which the first draw overwrites. The sprite's bit order is D15. -/
def Obligations.DrawingTwiceRestoresTheScreen : Prop :=
  ∀ (s t : State) (x y : Reg) (n : Fin 16), x ≠ Reg.vf → y ≠ Reg.vf → (n.val = 0 ∨ s.i.toNat + n.val ≤ 4096) →
    exec (.drw x y n) s = .next t →
    ∃ u, exec (.drw x y n) t = .next u ∧ u.fb = s.fb ∧
      (u.reg Reg.vf = 1 ↔ ∃ row < 32, ∃ col < 64, spriteBit s x y n row col = true ∧ s.fb.pixel row col = false)

/-- The packed framebuffer the host reads: 256 bytes, pixel `p = 64 * row + col` at bit `7 - p mod 8` of byte `p div 8` (R30,
R39; the outputs are D1). -/
def Obligations.PackedFramebufferIsRowMajor : Prop :=
  ∀ s : State, s.outputs.fb.length = 256 ∧ s.outputs.dc = s.dc ∧ s.outputs.st = s.st ∧ s.outputs.fault = s.fault ∧
    ∀ row < 32, ∀ col < 64, ∃ b, s.outputs.fb[(64 * row + col) / 8]? = some b ∧
      b.getLsbD (7 - (64 * row + col) % 8) = s.fb.pixel row col

/-! ## Key wait and timers (46_keypad.md R172; 47_timer.md) -/

/-- Fx0A: with no key held the STEP changes nothing at all, `PC` included, so that it is executed again; with a key held
`V[x]` is the lowest held key and all else is as before (R172; level-sensitive by the spec's decision D25). -/
def Obligations.KeyWaitPollsForTheLowestKey : Prop :=
  (∀ (s : State) (x : Reg), s.fetches (.ldVxK x) → s.keys = 0 → step s = .next s) ∧
  (∀ (s : State) (x : Reg) (k : Nat), k < 16 → s.keys.getLsbD k = true → (∀ j < k, s.keys.getLsbD j = false) →
    ∃ t, exec (.ldVxK x) s = .next t ∧ (t.reg x).toNat = k ∧ (∀ r, r ≠ x → t.reg r = s.reg r) ∧
      UnchangedBut [.regs] s t)

/-- Fx07, Fx15, Fx18: the delay timer is read into `V[x]`, the delay timer or the sound timer set from it; nothing else
changes (R180, R181, R182). -/
def Obligations.TimerInstructionsCopyTheirByte : Prop :=
  ∀ (s : State) (x : Reg),
    (∃ t, exec (.ldVxDt x) s = .next t ∧ (∀ r, t.reg r = if r = x then s.dt else s.reg r) ∧ UnchangedBut [.regs] s t) ∧
    (∃ t, exec (.ldDtVx x) s = .next t ∧ t.dt = s.reg x ∧ UnchangedBut [.dt] s t) ∧
    (∃ t, exec (.ldStVx x) s = .next t ∧ t.st = s.reg x ∧ UnchangedBut [.st] s t)

/-! ## Memory transfer (48_memory_transfer.md) -/

/-- Fx33, its encoding and effect: the hundreds, tens and ones digit of `V[x]` at `I`, `I + 1`, `I + 2`, every other byte and
all else as before; OutOfBounds before any write when the three bytes are not all in memory (R190; the spec's own decisions:
`I` is kept D20, the fault without partial effect D6 (R58) and its record, word and `PC`, D7 (R204), log entry 1). -/
def Obligations.BcdStoresThreeDigits : Prop :=
  (∀ x, decode (formatI 0xF x 0x33) = .ok (.ldB x)) ∧
  (∀ (s : State) (x : Reg), s.i.toNat + 3 ≤ 4096 →
    ∃ t, exec (.ldB x) s = .next t ∧
      (t.readByte s.i.toNat).toNat = (s.reg x).toNat / 100 ∧
      (t.readByte (s.i.toNat + 1)).toNat = (s.reg x).toNat / 10 % 10 ∧
      (t.readByte (s.i.toNat + 2)).toNat = (s.reg x).toNat % 10 ∧
      (∀ a, a < s.i.toNat ∨ s.i.toNat + 3 ≤ a → t.readByte a = s.readByte a) ∧ UnchangedBut [.mem] s t) ∧
  (∀ (s : State) (x : Reg), 4093 < s.i.toNat →
    exec (.ldB x) s = .next (s.faultedIn (.ldB x) .outOfBounds (some (max s.i.toNat 4096))))

/-- Fx55 within memory: the byte at `I + k` is `V[k]` for `k` from 0 to `x`, every other byte and all else, `I` and the
registers among them, as before (R191; that `I` is kept is D20). -/
def Obligations.StoreRegistersWritesVZeroToVx : Prop :=
  ∀ (s : State) (x : Reg), s.i.toNat + x.val ≤ 4095 →
    ∃ t, exec (.storeRegs x) s = .next t ∧ (∀ k : Reg, k ≤ x → t.readByte (s.i.toNat + k.val) = s.reg k) ∧
      (∀ a, a < s.i.toNat ∨ s.i.toNat + x.val < a → t.readByte a = s.readByte a) ∧ UnchangedBut [.mem] s t

/-- Fx65 within memory: `V[k]` is the byte at `I + k` for `k` from 0 to `x`; the registers above `x` and all else, `I` and
memory among them, as before (R192; that `I` is kept is D20). -/
def Obligations.LoadRegistersReadsVZeroToVx : Prop :=
  ∀ (s : State) (x : Reg), s.i.toNat + x.val ≤ 4095 →
    ∃ t, exec (.loadRegs x) s = .next t ∧
      (∀ k : Reg, t.reg k = if k ≤ x then s.readByte (s.i.toNat + k.val) else s.reg k) ∧ UnchangedBut [.regs] s t

/-- Registers stored by Fx55 and then overwritten in any way are restored by Fx65 (R191, R192; 95_test_vectors.md S8; that `I`
is kept is D20). -/
def Obligations.StoreThenLoadRestoresRegisters : Prop :=
  ∀ (s : State) (x : Reg) (v : Vector Byte 16), s.i.toNat + x.val ≤ 4095 →
    ∃ t u, exec (.storeRegs x) s = .next t ∧ exec (.loadRegs x) { t with v := v } = .next u ∧
      ∀ k : Reg, k ≤ x → u.reg k = s.reg k

/-- A store is seen by the very next fetch: when Fx55 writes over the two bytes at `PC`, the next STEP executes the
instruction that the stored registers spell. R64 marks this as the spec's own decision D32, an inference from the one memory
array and the fetch contract, its source not discussing self-modifying code (log entry 20). -/
def Obligations.StoreIsSeenByTheNextFetch : Prop :=
  ∀ (s : State) (x k k' : Reg) (i : Instr), s.fault = none → s.i.toNat + x.val ≤ 4095 → k'.val = k.val + 1 → k' ≤ x →
    s.pc.toNat = s.i.toNat + k.val → decode (s.reg k ++ s.reg k') = .ok i →
    ∃ t, exec (.storeRegs x) s = .next t ∧ step t = exec i { t with pc := t.pc + 2 }

/-! ## Frames over all instructions -/

/-- An instruction changes no element but those R20 and R210 let it write: no instruction writes MODE, KEYS or the
parameters; memory is written by Fx33 and Fx55 alone, FB and DC by 00E0 and Dxyn alone (DC is D14), DT by Fx15, ST by Fx18, I
by Annn, Fx1E and Fx29, the stack by 2nnn and 00EE (R20, R21, R23, R24, R27, R28, R30, R31, R32, R33, R34). Two elements are
the model's own: the parameters (log entry 4), and the draw counter, which Cxnn alone changes (log entry 3, a design choice). -/
def Obligations.InstructionsWriteOnlyTheirElements : Prop :=
  ∀ (i : Instr) (s t : State), exec i s = .next t → UnchangedBut (instrWrites i) s t

/-- An instruction changes no general register but its destination registers, and VF where it writes a flag (R21, R22; D18). -/
def Obligations.InstructionsWriteOnlyTheirRegisters : Prop :=
  ∀ (i : Instr) (s t : State) (r : Reg), exec i s = .next t → destReg i r = false → t.reg r = s.reg r

/-- An instruction changes no byte of memory but those it stores: three from `I` on for Fx33, `x + 1` from `I` on for Fx55,
none for any other (R24, R57). -/
def Obligations.InstructionsWriteOnlyTheirBytes : Prop :=
  ∀ (i : Instr) (s t : State) (a : Nat), exec i s = .next t → ¬ storesTo i s a → t.readByte a = s.readByte a

/-! ## Invariants and whole-machine rules -/

/-- Every STEP keeps the invariant: the stack within STACK_DEPTH, `PC` at most 0x10FE, return addresses at most 0x1000 (R23,
R28, R100; D3, D9), a fault record as R204 says, its `pc` that of the frozen machine (D7, D8), and memory in its canonical
form, which is the model's representation and no rule of the spec (log entry 8, a design choice). -/
def Obligations.StepKeepsTheMachineInvariant : Prop :=
  ∀ s t : State, Invariant s → step s = .next t → Invariant t

/-- Every event keeps the invariant, so every history of the machine does (R23, R28; D3, D7, D8, D9; histories are D2: R231,
log entry 9). Its canonical memory is the model's representation and no rule of the spec (log entry 8, a design choice). -/
def Obligations.EveryHistoryKeepsTheMachineInvariant : Prop :=
  ∀ (es : List Event) (s t : State), Invariant s → runEvents es s = .next t → Invariant t

/-- The state after reset meets the invariant. The empty stack and FAULT none are the spec's decision D10 (R37, log entry 7),
`PC` at 0x200 is R37's, the empty list in canonical form is the model's representation of memory (log entry 8), and the
PROGRAM it stands for is the model's choice (log entry 5). -/
def Obligations.ResetStateMeetsTheMachineInvariant : Prop := Invariant State.reset

/-- Memories that hold the same bytes are the same data: the canonical form is canonical (R24; the form is the model's, log
entry 8). -/
def Obligations.EqualBytesAreEqualMemory : Prop :=
  ∀ (bg : Nat → Byte) (m m' : Memory), m.wf bg → m'.wf bg → (∀ a, m.read bg a = m'.read bg a) → m = m'

/-- From an idle state, a jump to itself at `PC`, a STEP leaves the whole state unchanged (R101; the idle state of R250 is D28). -/
def Obligations.IdleStepChangesNothing : Prop :=
  ∀ s : State, s.idle → step s = .next s

/-- MODE changes the behaviour of Bnnn alone: any other instruction does the same in both modes. That is the spec's own
decision D27, which settles 90_conflicts.md C2 (R33; R77 is derived; log entry 20). -/
def Obligations.ModeMattersOnlyToJumpWithOffset : Prop :=
  ∀ (i : Instr) (s t : State) (m : Mode), (∀ nnn, i ≠ .jpV0 nnn) → exec i s = .next t →
    exec i { s with mode := m } = .next { t with mode := m }

/-- No instruction reads the sound timer, the display-changed flag or the fault record: two states that differ in these
alone differ in these alone afterwards (R31; DC is D14, the record D7). -/
def Obligations.HostOutputsAreNotReadByInstructions : Prop :=
  ∀ (i : Instr) (s t : State) (b : Byte) (d : Bool) (f : Option FaultRecord), exec i s = .next t →
    ∃ u, exec i { s with st := b, dc := d, fault := f } = .next u ∧
      { u with st := 0, dc := false, fault := none } = { t with st := 0, dc := false, fault := none }
end

