-- ==== Sys2Proof/Laws/Decode.lean ====
section
/-! SUPPORT. The fields of a word in each format, and each word as its fields put together (30_encoding.md R71, R72). -/

namespace Sys2Proof

variable (op n : BitVec 4) (x y : Reg) (nn : Byte) (nnn : BitVec 12) (w : Word)

@[simp] theorem fieldOp_formatA : fieldOp (formatA op nnn) = op := by
  rw [fieldOp, formatA, BitVec.extractLsb'_append_eq_of_le (by decide), BitVec.extractLsb'_eq_self]

@[simp] theorem fieldNNN_formatA : fieldNNN (formatA op nnn) = nnn := by
  rw [fieldNNN, formatA, BitVec.extractLsb'_append_eq_of_add_le (by decide), BitVec.extractLsb'_eq_self]

@[simp] theorem fieldOp_formatI : fieldOp (formatI op x nn) = op := by
  rw [fieldOp, formatI, BitVec.extractLsb'_append_eq_of_le (by decide), BitVec.extractLsb'_eq_self]

@[simp] theorem fieldX_formatI : fieldX (formatI op x nn) = x := by
  rw [fieldX, formatI, BitVec.extractLsb'_append_eq_of_add_le (by decide),
    BitVec.extractLsb'_append_eq_of_le (by decide), BitVec.extractLsb'_eq_self]

@[simp] theorem fieldNN_formatI : fieldNN (formatI op x nn) = nn := by
  rw [fieldNN, formatI, BitVec.extractLsb'_append_eq_of_add_le (by decide),
    BitVec.extractLsb'_append_eq_of_add_le (by decide), BitVec.extractLsb'_eq_self]

@[simp] theorem fieldOp_formatR : fieldOp (formatR op x y n) = op := by
  rw [fieldOp, formatR, BitVec.extractLsb'_append_eq_of_le (by decide), BitVec.extractLsb'_eq_self]

@[simp] theorem fieldX_formatR : fieldX (formatR op x y n) = x := by
  rw [fieldX, formatR, BitVec.extractLsb'_append_eq_of_add_le (by decide),
    BitVec.extractLsb'_append_eq_of_le (by decide), BitVec.extractLsb'_eq_self]

@[simp] theorem fieldY_formatR : fieldY (formatR op x y n) = y := by
  rw [fieldY, formatR, BitVec.extractLsb'_append_eq_of_add_le (by decide),
    BitVec.extractLsb'_append_eq_of_add_le (by decide), BitVec.extractLsb'_append_eq_of_le (by decide),
    BitVec.extractLsb'_eq_self]

@[simp] theorem fieldN_formatR : fieldN (formatR op x y n) = n := by
  rw [fieldN, formatR, BitVec.extractLsb'_append_eq_of_add_le (by decide),
    BitVec.extractLsb'_append_eq_of_add_le (by decide), BitVec.extractLsb'_append_eq_of_add_le (by decide),
    BitVec.extractLsb'_eq_self]

/-- The value of a format A word. -/
theorem formatA_toNat : (formatA op nnn).toNat = 4096 * op.toNat + nnn.toNat := by
  have h : (formatA op nnn).toNat = op.toNat <<< 12 ||| nnn.toNat := BitVec.toNat_append op nnn
  rw [h, ← Nat.shiftLeft_add_eq_or_of_lt nnn.isLt, Nat.shiftLeft_eq, Nat.mul_comm]

/-- A word is its `op` and `nnn` put together. -/
theorem formatA_fields : formatA (fieldOp w) (fieldNNN w) = w := by
  show w.extractLsb' 12 4 ++ w.extractLsb' 0 12 = w
  rw [BitVec.extractLsb'_append_extractLsb'_eq_extractLsb' (by decide), BitVec.extractLsb'_eq_self]

/-- A word is its `op`, `x` and `nn` put together. -/
theorem formatI_fields : formatI (fieldOp w) (fieldX w) (fieldNN w) = w := by
  show w.extractLsb' 12 4 ++ (w.extractLsb' 8 4 ++ w.extractLsb' 0 8) = w
  rw [BitVec.extractLsb'_append_extractLsb'_eq_extractLsb' (by decide),
    BitVec.extractLsb'_append_extractLsb'_eq_extractLsb' (by decide), BitVec.extractLsb'_eq_self]

/-- A word is its four nibbles put together. -/
theorem formatR_fields : formatR (fieldOp w) (fieldX w) (fieldY w) (fieldN w) = w := by
  show w.extractLsb' 12 4 ++ (w.extractLsb' 8 4 ++ (w.extractLsb' 4 4 ++ w.extractLsb' 0 4)) = w
  rw [BitVec.extractLsb'_append_extractLsb'_eq_extractLsb' (by decide),
    BitVec.extractLsb'_append_extractLsb'_eq_extractLsb' (by decide),
    BitVec.extractLsb'_append_extractLsb'_eq_extractLsb' (by decide), BitVec.extractLsb'_eq_self]

/-- The word of two bytes cut into its bytes again (R54). -/
theorem bytesOfWord_wordOfBytes (hi lo : Byte) : bytesOfWord (wordOfBytes hi lo) = [hi, lo] := by
  rw [bytesOfWord, wordOfBytes, BitVec.extractLsb'_append_eq_of_le (by decide), BitVec.extractLsb'_eq_self,
    BitVec.extractLsb'_append_eq_of_add_le (by decide), BitVec.extractLsb'_eq_self]

/-- A word put together again from its bytes (R54). -/
theorem wordOfBytes_extract : wordOfBytes (w.extractLsb' 8 8) (w.extractLsb' 0 8) = w := by
  rw [wordOfBytes, BitVec.extractLsb'_append_extractLsb'_eq_extractLsb' (by decide), BitVec.extractLsb'_eq_self]

/-! ## Dispatch by the high nibble (R74), one lemma a group -/

variable {w}

/-- The high nibble is one of sixteen. -/
theorem nibble_cases (b : BitVec 4) :
    b = 0x0 ∨ b = 0x1 ∨ b = 0x2 ∨ b = 0x3 ∨ b = 0x4 ∨ b = 0x5 ∨ b = 0x6 ∨ b = 0x7 ∨ b = 0x8 ∨ b = 0x9 ∨ b = 0xA ∨
      b = 0xB ∨ b = 0xC ∨ b = 0xD ∨ b = 0xE ∨ b = 0xF := by
  revert b; decide

theorem decode_op0 (h : fieldOp w = 0x0#4) : decode w = decodeGroup0 w := by simp [decode, h]
theorem decode_op1 (h : fieldOp w = 0x1#4) : decode w = .ok (.jp (fieldNNN w)) := by simp [decode, h]
theorem decode_op2 (h : fieldOp w = 0x2#4) : decode w = .ok (.call (fieldNNN w)) := by simp [decode, h]
theorem decode_op3 (h : fieldOp w = 0x3#4) : decode w = .ok (.seImm (fieldX w) (fieldNN w)) := by simp [decode, h]
theorem decode_op4 (h : fieldOp w = 0x4#4) : decode w = .ok (.sneImm (fieldX w) (fieldNN w)) := by simp [decode, h]
theorem decode_op5 (h : fieldOp w = 0x5#4) : decode w = decodeSkipReg w .seReg := by simp [decode, h]
theorem decode_op6 (h : fieldOp w = 0x6#4) : decode w = .ok (.ldImm (fieldX w) (fieldNN w)) := by simp [decode, h]
theorem decode_op7 (h : fieldOp w = 0x7#4) : decode w = .ok (.addImm (fieldX w) (fieldNN w)) := by simp [decode, h]
theorem decode_op8 (h : fieldOp w = 0x8#4) : decode w = decodeGroup8 w := by simp [decode, h]
theorem decode_op9 (h : fieldOp w = 0x9#4) : decode w = decodeSkipReg w .sneReg := by simp [decode, h]
theorem decode_opA (h : fieldOp w = 0xA#4) : decode w = .ok (.ldI (fieldNNN w)) := by simp [decode, h]
theorem decode_opB (h : fieldOp w = 0xB#4) : decode w = .ok (.jpV0 (fieldNNN w)) := by simp [decode, h]
theorem decode_opC (h : fieldOp w = 0xC#4) : decode w = .ok (.rnd (fieldX w) (fieldNN w)) := by simp [decode, h]
theorem decode_opD (h : fieldOp w = 0xD#4) : decode w = .ok (.drw (fieldX w) (fieldY w) (fieldN w).toFin) := by simp [decode, h]
theorem decode_opE (h : fieldOp w = 0xE#4) : decode w = decodeGroupE w := by simp [decode, h]
theorem decode_opF (h : fieldOp w = 0xF#4) : decode w = decodeGroupF w := by simp [decode, h]

variable (w)

/-! ## The masks of the opcode map (R75) -/

theorem and_fifteen (b : BitVec 4) : b &&& 15#4 = b := by revert b; decide

theorem and_255 (b : Byte) : b &&& 255#8 = b := by
  rw [show (255#8) = BitVec.allOnes 8 by decide, BitVec.and_allOnes]

/-- The mask F000 keeps `op`. -/
theorem and_F000 : w &&& 0xF000#16 = fieldOp w ++ 0x000#12 := by
  conv_lhs => rw [← formatA_fields w]
  rw [show (0xF000#16) = 0xF#4 ++ 0x000#12 by decide, formatA, BitVec.and_append, and_fifteen, BitVec.and_zero]

/-- The mask F0FF keeps `op` and `nn`. -/
theorem and_F0FF : w &&& 0xF0FF#16 = fieldOp w ++ (0x0#4 ++ fieldNN w) := by
  conv_lhs => rw [← formatI_fields w]
  rw [show (0xF0FF#16) = 0xF#4 ++ (0x0#4 ++ 0xFF#8) by decide, formatI, BitVec.and_append, BitVec.and_append,
    and_fifteen, BitVec.and_zero, and_255]

/-- The mask F00F keeps `op` and `n`. -/
theorem and_F00F : w &&& 0xF00F#16 = fieldOp w ++ (0x0#4 ++ (0x0#4 ++ fieldN w)) := by
  conv_lhs => rw [← formatR_fields w]
  rw [show (0xF00F#16) = 0xF#4 ++ (0x0#4 ++ (0x0#4 ++ 0xF#4)) by decide, formatR, BitVec.and_append,
    BitVec.and_append, BitVec.and_append, and_fifteen, BitVec.and_zero, BitVec.and_zero, and_fifteen]

/-- The mask FFFF keeps the word. -/
theorem and_FFFF : w &&& 0xFFFF#16 = w := by
  rw [show (0xFFFF#16) = BitVec.allOnes 16 by decide, BitVec.and_allOnes]

end Sys2Proof
end

