-- ==== Sys2Proof/Laws/State.lean ====
section
/-! SUPPORT. One lemma for each field and each update of the state, true by `rfl` (after a case split for `skipIf`), so that no
proof unfolds a record update; then the same for the two reads, `reg` and `readByte`, under the updates that do not concern them. -/

namespace Sys2Proof.Machine

variable (s : State)

/-! ## `setReg` -/

@[simp] theorem State.setReg_cfg (r : Reg) (b : Byte) : (s.setReg r b).cfg = s.cfg := rfl
@[simp] theorem State.setReg_mem (r : Reg) (b : Byte) : (s.setReg r b).mem = s.mem := rfl
@[simp] theorem State.setReg_v (r : Reg) (b : Byte) : (s.setReg r b).v = s.v.set r b := rfl
@[simp] theorem State.setReg_i (r : Reg) (b : Byte) : (s.setReg r b).i = s.i := rfl
@[simp] theorem State.setReg_pc (r : Reg) (b : Byte) : (s.setReg r b).pc = s.pc := rfl
@[simp] theorem State.setReg_stack (r : Reg) (b : Byte) : (s.setReg r b).stack = s.stack := rfl
@[simp] theorem State.setReg_fb (r : Reg) (b : Byte) : (s.setReg r b).fb = s.fb := rfl
@[simp] theorem State.setReg_dt (r : Reg) (b : Byte) : (s.setReg r b).dt = s.dt := rfl
@[simp] theorem State.setReg_st (r : Reg) (b : Byte) : (s.setReg r b).st = s.st := rfl
@[simp] theorem State.setReg_keys (r : Reg) (b : Byte) : (s.setReg r b).keys = s.keys := rfl
@[simp] theorem State.setReg_mode (r : Reg) (b : Byte) : (s.setReg r b).mode = s.mode := rfl
@[simp] theorem State.setReg_dc (r : Reg) (b : Byte) : (s.setReg r b).dc = s.dc := rfl
@[simp] theorem State.setReg_fault (r : Reg) (b : Byte) : (s.setReg r b).fault = s.fault := rfl
@[simp] theorem State.setReg_rndCount (r : Reg) (b : Byte) : (s.setReg r b).rndCount = s.rndCount := rfl
@[simp] theorem State.setReg_readByte (r : Reg) (b : Byte) (q : Nat) : (s.setReg r b).readByte q = s.readByte q := rfl
@[simp] theorem State.setReg_image (r : Reg) (b : Byte) : (s.setReg r b).image = s.image := rfl

/-! ## `writeByte` -/

@[simp] theorem State.writeByte_cfg (a : Nat) (b : Byte) : (s.writeByte a b).cfg = s.cfg := rfl
@[simp] theorem State.writeByte_mem (a : Nat) (b : Byte) : (s.writeByte a b).mem = s.mem.write s.image a b := rfl
@[simp] theorem State.writeByte_v (a : Nat) (b : Byte) : (s.writeByte a b).v = s.v := rfl
@[simp] theorem State.writeByte_i (a : Nat) (b : Byte) : (s.writeByte a b).i = s.i := rfl
@[simp] theorem State.writeByte_pc (a : Nat) (b : Byte) : (s.writeByte a b).pc = s.pc := rfl
@[simp] theorem State.writeByte_stack (a : Nat) (b : Byte) : (s.writeByte a b).stack = s.stack := rfl
@[simp] theorem State.writeByte_fb (a : Nat) (b : Byte) : (s.writeByte a b).fb = s.fb := rfl
@[simp] theorem State.writeByte_dt (a : Nat) (b : Byte) : (s.writeByte a b).dt = s.dt := rfl
@[simp] theorem State.writeByte_st (a : Nat) (b : Byte) : (s.writeByte a b).st = s.st := rfl
@[simp] theorem State.writeByte_keys (a : Nat) (b : Byte) : (s.writeByte a b).keys = s.keys := rfl
@[simp] theorem State.writeByte_mode (a : Nat) (b : Byte) : (s.writeByte a b).mode = s.mode := rfl
@[simp] theorem State.writeByte_dc (a : Nat) (b : Byte) : (s.writeByte a b).dc = s.dc := rfl
@[simp] theorem State.writeByte_fault (a : Nat) (b : Byte) : (s.writeByte a b).fault = s.fault := rfl
@[simp] theorem State.writeByte_rndCount (a : Nat) (b : Byte) : (s.writeByte a b).rndCount = s.rndCount := rfl
@[simp] theorem State.writeByte_reg (a : Nat) (b : Byte) (q : Reg) : (s.writeByte a b).reg q = s.reg q := rfl
@[simp] theorem State.writeByte_image (a : Nat) (b : Byte) : (s.writeByte a b).image = s.image := rfl

/-! ## `push` -/

@[simp] theorem State.push_cfg (w : Word) : (s.push w).cfg = s.cfg := rfl
@[simp] theorem State.push_mem (w : Word) : (s.push w).mem = s.mem := rfl
@[simp] theorem State.push_v (w : Word) : (s.push w).v = s.v := rfl
@[simp] theorem State.push_i (w : Word) : (s.push w).i = s.i := rfl
@[simp] theorem State.push_pc (w : Word) : (s.push w).pc = s.pc := rfl
@[simp] theorem State.push_stack (w : Word) : (s.push w).stack = s.stack ++ [w] := rfl
@[simp] theorem State.push_fb (w : Word) : (s.push w).fb = s.fb := rfl
@[simp] theorem State.push_dt (w : Word) : (s.push w).dt = s.dt := rfl
@[simp] theorem State.push_st (w : Word) : (s.push w).st = s.st := rfl
@[simp] theorem State.push_keys (w : Word) : (s.push w).keys = s.keys := rfl
@[simp] theorem State.push_mode (w : Word) : (s.push w).mode = s.mode := rfl
@[simp] theorem State.push_dc (w : Word) : (s.push w).dc = s.dc := rfl
@[simp] theorem State.push_fault (w : Word) : (s.push w).fault = s.fault := rfl
@[simp] theorem State.push_rndCount (w : Word) : (s.push w).rndCount = s.rndCount := rfl
@[simp] theorem State.push_reg (w : Word) (q : Reg) : (s.push w).reg q = s.reg q := rfl
@[simp] theorem State.push_readByte (w : Word) (q : Nat) : (s.push w).readByte q = s.readByte q := rfl
@[simp] theorem State.push_image (w : Word) : (s.push w).image = s.image := rfl

/-! ## `raise` -/

@[simp] theorem State.raise_cfg (k : FaultKind) (w : Option Word) (a : Option Nat) : (s.raise k w a).cfg = s.cfg := rfl
@[simp] theorem State.raise_mem (k : FaultKind) (w : Option Word) (a : Option Nat) : (s.raise k w a).mem = s.mem := rfl
@[simp] theorem State.raise_v (k : FaultKind) (w : Option Word) (a : Option Nat) : (s.raise k w a).v = s.v := rfl
@[simp] theorem State.raise_i (k : FaultKind) (w : Option Word) (a : Option Nat) : (s.raise k w a).i = s.i := rfl
@[simp] theorem State.raise_pc (k : FaultKind) (w : Option Word) (a : Option Nat) : (s.raise k w a).pc = s.pc := rfl
@[simp] theorem State.raise_stack (k : FaultKind) (w : Option Word) (a : Option Nat) : (s.raise k w a).stack = s.stack := rfl
@[simp] theorem State.raise_fb (k : FaultKind) (w : Option Word) (a : Option Nat) : (s.raise k w a).fb = s.fb := rfl
@[simp] theorem State.raise_dt (k : FaultKind) (w : Option Word) (a : Option Nat) : (s.raise k w a).dt = s.dt := rfl
@[simp] theorem State.raise_st (k : FaultKind) (w : Option Word) (a : Option Nat) : (s.raise k w a).st = s.st := rfl
@[simp] theorem State.raise_keys (k : FaultKind) (w : Option Word) (a : Option Nat) : (s.raise k w a).keys = s.keys := rfl
@[simp] theorem State.raise_mode (k : FaultKind) (w : Option Word) (a : Option Nat) : (s.raise k w a).mode = s.mode := rfl
@[simp] theorem State.raise_dc (k : FaultKind) (w : Option Word) (a : Option Nat) : (s.raise k w a).dc = s.dc := rfl
@[simp] theorem State.raise_fault (k : FaultKind) (w : Option Word) (a : Option Nat) : (s.raise k w a).fault = some { kind := k, word := w, pc := s.pc, addr := a } := rfl
@[simp] theorem State.raise_rndCount (k : FaultKind) (w : Option Word) (a : Option Nat) : (s.raise k w a).rndCount = s.rndCount := rfl
@[simp] theorem State.raise_reg (k : FaultKind) (w : Option Word) (a : Option Nat) (q : Reg) : (s.raise k w a).reg q = s.reg q := rfl
@[simp] theorem State.raise_readByte (k : FaultKind) (w : Option Word) (a : Option Nat) (q : Nat) : (s.raise k w a).readByte q = s.readByte q := rfl
@[simp] theorem State.raise_image (k : FaultKind) (w : Option Word) (a : Option Nat) : (s.raise k w a).image = s.image := rfl

/-! ## `advance` -/

@[simp] theorem State.advance_cfg : (s.advance).cfg = s.cfg := rfl
@[simp] theorem State.advance_mem : (s.advance).mem = s.mem := rfl
@[simp] theorem State.advance_v : (s.advance).v = s.v := rfl
@[simp] theorem State.advance_i : (s.advance).i = s.i := rfl
@[simp] theorem State.advance_pc : (s.advance).pc = s.pc + 2 := rfl
@[simp] theorem State.advance_stack : (s.advance).stack = s.stack := rfl
@[simp] theorem State.advance_fb : (s.advance).fb = s.fb := rfl
@[simp] theorem State.advance_dt : (s.advance).dt = s.dt := rfl
@[simp] theorem State.advance_st : (s.advance).st = s.st := rfl
@[simp] theorem State.advance_keys : (s.advance).keys = s.keys := rfl
@[simp] theorem State.advance_mode : (s.advance).mode = s.mode := rfl
@[simp] theorem State.advance_dc : (s.advance).dc = s.dc := rfl
@[simp] theorem State.advance_fault : (s.advance).fault = s.fault := rfl
@[simp] theorem State.advance_rndCount : (s.advance).rndCount = s.rndCount := rfl
@[simp] theorem State.advance_reg (q : Reg) : (s.advance).reg q = s.reg q := rfl
@[simp] theorem State.advance_readByte (q : Nat) : (s.advance).readByte q = s.readByte q := rfl
@[simp] theorem State.advance_image : (s.advance).image = s.image := rfl

/-! ## `jump` -/

@[simp] theorem State.jump_cfg (w : Word) : (s.jump w).cfg = s.cfg := rfl
@[simp] theorem State.jump_mem (w : Word) : (s.jump w).mem = s.mem := rfl
@[simp] theorem State.jump_v (w : Word) : (s.jump w).v = s.v := rfl
@[simp] theorem State.jump_i (w : Word) : (s.jump w).i = s.i := rfl
@[simp] theorem State.jump_pc (w : Word) : (s.jump w).pc = w := rfl
@[simp] theorem State.jump_stack (w : Word) : (s.jump w).stack = s.stack := rfl
@[simp] theorem State.jump_fb (w : Word) : (s.jump w).fb = s.fb := rfl
@[simp] theorem State.jump_dt (w : Word) : (s.jump w).dt = s.dt := rfl
@[simp] theorem State.jump_st (w : Word) : (s.jump w).st = s.st := rfl
@[simp] theorem State.jump_keys (w : Word) : (s.jump w).keys = s.keys := rfl
@[simp] theorem State.jump_mode (w : Word) : (s.jump w).mode = s.mode := rfl
@[simp] theorem State.jump_dc (w : Word) : (s.jump w).dc = s.dc := rfl
@[simp] theorem State.jump_fault (w : Word) : (s.jump w).fault = s.fault := rfl
@[simp] theorem State.jump_rndCount (w : Word) : (s.jump w).rndCount = s.rndCount := rfl
@[simp] theorem State.jump_reg (w : Word) (q : Reg) : (s.jump w).reg q = s.reg q := rfl
@[simp] theorem State.jump_readByte (w : Word) (q : Nat) : (s.jump w).readByte q = s.readByte q := rfl
@[simp] theorem State.jump_image (w : Word) : (s.jump w).image = s.image := rfl

/-! ## `setIndex` -/

@[simp] theorem State.setIndex_cfg (w : Word) : (s.setIndex w).cfg = s.cfg := rfl
@[simp] theorem State.setIndex_mem (w : Word) : (s.setIndex w).mem = s.mem := rfl
@[simp] theorem State.setIndex_v (w : Word) : (s.setIndex w).v = s.v := rfl
@[simp] theorem State.setIndex_i (w : Word) : (s.setIndex w).i = w := rfl
@[simp] theorem State.setIndex_pc (w : Word) : (s.setIndex w).pc = s.pc := rfl
@[simp] theorem State.setIndex_stack (w : Word) : (s.setIndex w).stack = s.stack := rfl
@[simp] theorem State.setIndex_fb (w : Word) : (s.setIndex w).fb = s.fb := rfl
@[simp] theorem State.setIndex_dt (w : Word) : (s.setIndex w).dt = s.dt := rfl
@[simp] theorem State.setIndex_st (w : Word) : (s.setIndex w).st = s.st := rfl
@[simp] theorem State.setIndex_keys (w : Word) : (s.setIndex w).keys = s.keys := rfl
@[simp] theorem State.setIndex_mode (w : Word) : (s.setIndex w).mode = s.mode := rfl
@[simp] theorem State.setIndex_dc (w : Word) : (s.setIndex w).dc = s.dc := rfl
@[simp] theorem State.setIndex_fault (w : Word) : (s.setIndex w).fault = s.fault := rfl
@[simp] theorem State.setIndex_rndCount (w : Word) : (s.setIndex w).rndCount = s.rndCount := rfl
@[simp] theorem State.setIndex_reg (w : Word) (q : Reg) : (s.setIndex w).reg q = s.reg q := rfl
@[simp] theorem State.setIndex_readByte (w : Word) (q : Nat) : (s.setIndex w).readByte q = s.readByte q := rfl
@[simp] theorem State.setIndex_image (w : Word) : (s.setIndex w).image = s.image := rfl

/-! ## `present` -/

@[simp] theorem State.present_cfg (f : FrameBuffer) : (s.present f).cfg = s.cfg := rfl
@[simp] theorem State.present_mem (f : FrameBuffer) : (s.present f).mem = s.mem := rfl
@[simp] theorem State.present_v (f : FrameBuffer) : (s.present f).v = s.v := rfl
@[simp] theorem State.present_i (f : FrameBuffer) : (s.present f).i = s.i := rfl
@[simp] theorem State.present_pc (f : FrameBuffer) : (s.present f).pc = s.pc := rfl
@[simp] theorem State.present_stack (f : FrameBuffer) : (s.present f).stack = s.stack := rfl
@[simp] theorem State.present_fb (f : FrameBuffer) : (s.present f).fb = f := rfl
@[simp] theorem State.present_dt (f : FrameBuffer) : (s.present f).dt = s.dt := rfl
@[simp] theorem State.present_st (f : FrameBuffer) : (s.present f).st = s.st := rfl
@[simp] theorem State.present_keys (f : FrameBuffer) : (s.present f).keys = s.keys := rfl
@[simp] theorem State.present_mode (f : FrameBuffer) : (s.present f).mode = s.mode := rfl
@[simp] theorem State.present_dc (f : FrameBuffer) : (s.present f).dc = true := rfl
@[simp] theorem State.present_fault (f : FrameBuffer) : (s.present f).fault = s.fault := rfl
@[simp] theorem State.present_rndCount (f : FrameBuffer) : (s.present f).rndCount = s.rndCount := rfl
@[simp] theorem State.present_reg (f : FrameBuffer) (q : Reg) : (s.present f).reg q = s.reg q := rfl
@[simp] theorem State.present_readByte (f : FrameBuffer) (q : Nat) : (s.present f).readByte q = s.readByte q := rfl
@[simp] theorem State.present_image (f : FrameBuffer) : (s.present f).image = s.image := rfl

/-! ## `setResultFlag` -/

@[simp] theorem State.setResultFlag_cfg (x : Reg) (b : Byte) (f : Bool) : (s.setResultFlag x b f).cfg = s.cfg := rfl
@[simp] theorem State.setResultFlag_mem (x : Reg) (b : Byte) (f : Bool) : (s.setResultFlag x b f).mem = s.mem := rfl
@[simp] theorem State.setResultFlag_i (x : Reg) (b : Byte) (f : Bool) : (s.setResultFlag x b f).i = s.i := rfl
@[simp] theorem State.setResultFlag_pc (x : Reg) (b : Byte) (f : Bool) : (s.setResultFlag x b f).pc = s.pc := rfl
@[simp] theorem State.setResultFlag_stack (x : Reg) (b : Byte) (f : Bool) : (s.setResultFlag x b f).stack = s.stack := rfl
@[simp] theorem State.setResultFlag_fb (x : Reg) (b : Byte) (f : Bool) : (s.setResultFlag x b f).fb = s.fb := rfl
@[simp] theorem State.setResultFlag_dt (x : Reg) (b : Byte) (f : Bool) : (s.setResultFlag x b f).dt = s.dt := rfl
@[simp] theorem State.setResultFlag_st (x : Reg) (b : Byte) (f : Bool) : (s.setResultFlag x b f).st = s.st := rfl
@[simp] theorem State.setResultFlag_keys (x : Reg) (b : Byte) (f : Bool) : (s.setResultFlag x b f).keys = s.keys := rfl
@[simp] theorem State.setResultFlag_mode (x : Reg) (b : Byte) (f : Bool) : (s.setResultFlag x b f).mode = s.mode := rfl
@[simp] theorem State.setResultFlag_dc (x : Reg) (b : Byte) (f : Bool) : (s.setResultFlag x b f).dc = s.dc := rfl
@[simp] theorem State.setResultFlag_fault (x : Reg) (b : Byte) (f : Bool) : (s.setResultFlag x b f).fault = s.fault := rfl
@[simp] theorem State.setResultFlag_rndCount (x : Reg) (b : Byte) (f : Bool) : (s.setResultFlag x b f).rndCount = s.rndCount := rfl
@[simp] theorem State.setResultFlag_readByte (x : Reg) (b : Byte) (f : Bool) (q : Nat) :
    (s.setResultFlag x b f).readByte q = s.readByte q := rfl

/-! ## `storeDraw` -/

@[simp] theorem State.storeDraw_cfg (x : Reg) (nn r : Byte) : (s.storeDraw x nn r).cfg = s.cfg := rfl
@[simp] theorem State.storeDraw_mem (x : Reg) (nn r : Byte) : (s.storeDraw x nn r).mem = s.mem := rfl
@[simp] theorem State.storeDraw_i (x : Reg) (nn r : Byte) : (s.storeDraw x nn r).i = s.i := rfl
@[simp] theorem State.storeDraw_pc (x : Reg) (nn r : Byte) : (s.storeDraw x nn r).pc = s.pc := rfl
@[simp] theorem State.storeDraw_stack (x : Reg) (nn r : Byte) : (s.storeDraw x nn r).stack = s.stack := rfl
@[simp] theorem State.storeDraw_fb (x : Reg) (nn r : Byte) : (s.storeDraw x nn r).fb = s.fb := rfl
@[simp] theorem State.storeDraw_dt (x : Reg) (nn r : Byte) : (s.storeDraw x nn r).dt = s.dt := rfl
@[simp] theorem State.storeDraw_st (x : Reg) (nn r : Byte) : (s.storeDraw x nn r).st = s.st := rfl
@[simp] theorem State.storeDraw_keys (x : Reg) (nn r : Byte) : (s.storeDraw x nn r).keys = s.keys := rfl
@[simp] theorem State.storeDraw_mode (x : Reg) (nn r : Byte) : (s.storeDraw x nn r).mode = s.mode := rfl
@[simp] theorem State.storeDraw_dc (x : Reg) (nn r : Byte) : (s.storeDraw x nn r).dc = s.dc := rfl
@[simp] theorem State.storeDraw_fault (x : Reg) (nn r : Byte) : (s.storeDraw x nn r).fault = s.fault := rfl
@[simp] theorem State.storeDraw_rndCount (x : Reg) (nn r : Byte) : (s.storeDraw x nn r).rndCount = s.rndCount := rfl
@[simp] theorem State.storeDraw_readByte (x : Reg) (nn r : Byte) (q : Nat) :
    (s.storeDraw x nn r).readByte q = s.readByte q := rfl

/-! ## `loadRegsFrom` -/

@[simp] theorem State.loadRegsFrom_cfg (a : Nat) (x : Reg) : (s.loadRegsFrom a x).cfg = s.cfg := rfl
@[simp] theorem State.loadRegsFrom_mem (a : Nat) (x : Reg) : (s.loadRegsFrom a x).mem = s.mem := rfl
@[simp] theorem State.loadRegsFrom_i (a : Nat) (x : Reg) : (s.loadRegsFrom a x).i = s.i := rfl
@[simp] theorem State.loadRegsFrom_pc (a : Nat) (x : Reg) : (s.loadRegsFrom a x).pc = s.pc := rfl
@[simp] theorem State.loadRegsFrom_stack (a : Nat) (x : Reg) : (s.loadRegsFrom a x).stack = s.stack := rfl
@[simp] theorem State.loadRegsFrom_fb (a : Nat) (x : Reg) : (s.loadRegsFrom a x).fb = s.fb := rfl
@[simp] theorem State.loadRegsFrom_dt (a : Nat) (x : Reg) : (s.loadRegsFrom a x).dt = s.dt := rfl
@[simp] theorem State.loadRegsFrom_st (a : Nat) (x : Reg) : (s.loadRegsFrom a x).st = s.st := rfl
@[simp] theorem State.loadRegsFrom_keys (a : Nat) (x : Reg) : (s.loadRegsFrom a x).keys = s.keys := rfl
@[simp] theorem State.loadRegsFrom_mode (a : Nat) (x : Reg) : (s.loadRegsFrom a x).mode = s.mode := rfl
@[simp] theorem State.loadRegsFrom_dc (a : Nat) (x : Reg) : (s.loadRegsFrom a x).dc = s.dc := rfl
@[simp] theorem State.loadRegsFrom_fault (a : Nat) (x : Reg) : (s.loadRegsFrom a x).fault = s.fault := rfl
@[simp] theorem State.loadRegsFrom_rndCount (a : Nat) (x : Reg) : (s.loadRegsFrom a x).rndCount = s.rndCount := rfl
@[simp] theorem State.loadRegsFrom_readByte (a : Nat) (x : Reg) (q : Nat) :
    (s.loadRegsFrom a x).readByte q = s.readByte q := rfl

/-! ## `raiseIn` -/

@[simp] theorem State.raiseIn_cfg (j : Instr) (k : FaultKind) (a : Option Nat) : (s.raiseIn j k a).cfg = s.cfg := rfl
@[simp] theorem State.raiseIn_mem (j : Instr) (k : FaultKind) (a : Option Nat) : (s.raiseIn j k a).mem = s.mem := rfl
@[simp] theorem State.raiseIn_v (j : Instr) (k : FaultKind) (a : Option Nat) : (s.raiseIn j k a).v = s.v := rfl
@[simp] theorem State.raiseIn_i (j : Instr) (k : FaultKind) (a : Option Nat) : (s.raiseIn j k a).i = s.i := rfl
@[simp] theorem State.raiseIn_pc (j : Instr) (k : FaultKind) (a : Option Nat) : (s.raiseIn j k a).pc = s.pc := rfl
@[simp] theorem State.raiseIn_stack (j : Instr) (k : FaultKind) (a : Option Nat) : (s.raiseIn j k a).stack = s.stack := rfl
@[simp] theorem State.raiseIn_fb (j : Instr) (k : FaultKind) (a : Option Nat) : (s.raiseIn j k a).fb = s.fb := rfl
@[simp] theorem State.raiseIn_dt (j : Instr) (k : FaultKind) (a : Option Nat) : (s.raiseIn j k a).dt = s.dt := rfl
@[simp] theorem State.raiseIn_st (j : Instr) (k : FaultKind) (a : Option Nat) : (s.raiseIn j k a).st = s.st := rfl
@[simp] theorem State.raiseIn_keys (j : Instr) (k : FaultKind) (a : Option Nat) : (s.raiseIn j k a).keys = s.keys := rfl
@[simp] theorem State.raiseIn_mode (j : Instr) (k : FaultKind) (a : Option Nat) : (s.raiseIn j k a).mode = s.mode := rfl
@[simp] theorem State.raiseIn_dc (j : Instr) (k : FaultKind) (a : Option Nat) : (s.raiseIn j k a).dc = s.dc := rfl
@[simp] theorem State.raiseIn_fault (j : Instr) (k : FaultKind) (a : Option Nat) : (s.raiseIn j k a).fault = some ⟨k, some (encode j), s.pc, a⟩ := rfl
@[simp] theorem State.raiseIn_rndCount (j : Instr) (k : FaultKind) (a : Option Nat) : (s.raiseIn j k a).rndCount = s.rndCount := rfl
@[simp] theorem State.raiseIn_reg (j : Instr) (k : FaultKind) (a : Option Nat) (q : Reg) :
    (s.raiseIn j k a).reg q = s.reg q := rfl
@[simp] theorem State.raiseIn_readByte (j : Instr) (k : FaultKind) (a : Option Nat) (q : Nat) :
    (s.raiseIn j k a).readByte q = s.readByte q := rfl

/-! ## `raiseRange` -/

@[simp] theorem State.raiseRange_cfg (j : Instr) (base : Nat) : (s.raiseRange j base).cfg = s.cfg := rfl
@[simp] theorem State.raiseRange_mem (j : Instr) (base : Nat) : (s.raiseRange j base).mem = s.mem := rfl
@[simp] theorem State.raiseRange_v (j : Instr) (base : Nat) : (s.raiseRange j base).v = s.v := rfl
@[simp] theorem State.raiseRange_i (j : Instr) (base : Nat) : (s.raiseRange j base).i = s.i := rfl
@[simp] theorem State.raiseRange_pc (j : Instr) (base : Nat) : (s.raiseRange j base).pc = s.pc := rfl
@[simp] theorem State.raiseRange_stack (j : Instr) (base : Nat) : (s.raiseRange j base).stack = s.stack := rfl
@[simp] theorem State.raiseRange_fb (j : Instr) (base : Nat) : (s.raiseRange j base).fb = s.fb := rfl
@[simp] theorem State.raiseRange_dt (j : Instr) (base : Nat) : (s.raiseRange j base).dt = s.dt := rfl
@[simp] theorem State.raiseRange_st (j : Instr) (base : Nat) : (s.raiseRange j base).st = s.st := rfl
@[simp] theorem State.raiseRange_keys (j : Instr) (base : Nat) : (s.raiseRange j base).keys = s.keys := rfl
@[simp] theorem State.raiseRange_mode (j : Instr) (base : Nat) : (s.raiseRange j base).mode = s.mode := rfl
@[simp] theorem State.raiseRange_dc (j : Instr) (base : Nat) : (s.raiseRange j base).dc = s.dc := rfl
@[simp] theorem State.raiseRange_fault (j : Instr) (base : Nat) : (s.raiseRange j base).fault = 
    some ⟨.outOfBounds, some (encode j), s.pc, some (outOfRangeAddr base)⟩ := rfl
@[simp] theorem State.raiseRange_rndCount (j : Instr) (base : Nat) : (s.raiseRange j base).rndCount = s.rndCount := rfl
@[simp] theorem State.raiseRange_reg (j : Instr) (base : Nat) (q : Reg) : (s.raiseRange j base).reg q = s.reg q := rfl
@[simp] theorem State.raiseRange_readByte (j : Instr) (base : Nat) (q : Nat) :
    (s.raiseRange j base).readByte q = s.readByte q := rfl

/-! ## `skipIf` -/

@[simp] theorem State.skipIf_cfg (c : Bool) : (s.skipIf c).cfg = s.cfg := by cases c <;> rfl
@[simp] theorem State.skipIf_mem (c : Bool) : (s.skipIf c).mem = s.mem := by cases c <;> rfl
@[simp] theorem State.skipIf_v (c : Bool) : (s.skipIf c).v = s.v := by cases c <;> rfl
@[simp] theorem State.skipIf_i (c : Bool) : (s.skipIf c).i = s.i := by cases c <;> rfl
@[simp] theorem State.skipIf_pc (c : Bool) : (s.skipIf c).pc = if c then s.pc + 2 else s.pc := by cases c <;> rfl
@[simp] theorem State.skipIf_stack (c : Bool) : (s.skipIf c).stack = s.stack := by cases c <;> rfl
@[simp] theorem State.skipIf_fb (c : Bool) : (s.skipIf c).fb = s.fb := by cases c <;> rfl
@[simp] theorem State.skipIf_dt (c : Bool) : (s.skipIf c).dt = s.dt := by cases c <;> rfl
@[simp] theorem State.skipIf_st (c : Bool) : (s.skipIf c).st = s.st := by cases c <;> rfl
@[simp] theorem State.skipIf_keys (c : Bool) : (s.skipIf c).keys = s.keys := by cases c <;> rfl
@[simp] theorem State.skipIf_mode (c : Bool) : (s.skipIf c).mode = s.mode := by cases c <;> rfl
@[simp] theorem State.skipIf_dc (c : Bool) : (s.skipIf c).dc = s.dc := by cases c <;> rfl
@[simp] theorem State.skipIf_fault (c : Bool) : (s.skipIf c).fault = s.fault := by cases c <;> rfl
@[simp] theorem State.skipIf_rndCount (c : Bool) : (s.skipIf c).rndCount = s.rndCount := by cases c <;> rfl
@[simp] theorem State.skipIf_reg (c : Bool) (q : Reg) : (s.skipIf c).reg q = s.reg q := by cases c <;> rfl
@[simp] theorem State.skipIf_readByte (c : Bool) (q : Nat) : (s.skipIf c).readByte q = s.readByte q := by cases c <;> rfl

end Sys2Proof.Machine
end

