-- ==== Sys2Proof/Laws/Memory.lean ====
section
/-! SUPPORT. What the memory operations do: a read after a write, and that every write keeps the canonical form. -/

namespace Sys2Proof.Machine

variable {bg : Nat → Byte} {m : Memory} {a a' : Nat} {b : Byte}

/-! ## The list operations -/

theorem Memory.lookup_insert_same : (m.insert a b).lookup a = some b := by
  induction m with
  | nil => simp [Memory.insert, Memory.lookup]
  | cons c m ih =>
    simp only [Memory.insert]
    split_ifs with h₁ h₂
    · simp [Memory.lookup]
    · simp [Memory.lookup]
    · simp [Memory.lookup, h₂, ih]

theorem Memory.lookup_insert_of_ne (h : a' ≠ a) : (m.insert a b).lookup a' = m.lookup a' := by
  induction m with
  | nil => simp [Memory.insert, Memory.lookup, h]
  | cons c m ih =>
    simp only [Memory.insert]
    split_ifs with h₁ h₂
    · simp [Memory.lookup, h]
    · simp [Memory.lookup, h, ← h₂]
    · simp [Memory.lookup, ih]

theorem Memory.lookup_erase_of_ne (h : a' ≠ a) : (m.erase a).lookup a' = m.lookup a' := by
  induction m with
  | nil => rfl
  | cons c m ih =>
    rw [Memory.erase] at ih
    by_cases hc : c.1 = a
    · simp [Memory.erase, Memory.lookup, hc, h, ih]
    · simp [Memory.erase, Memory.lookup, hc, ih]

theorem Memory.lookup_erase_same : (m.erase a).lookup a = none := by
  induction m with
  | nil => rfl
  | cons c m ih =>
    rw [Memory.erase] at ih
    by_cases hc : c.1 = a
    · simp [Memory.erase, hc, ih]
    · simp [Memory.erase, Memory.lookup, hc, Ne.symm hc, ih]

/-- An address below every listed one is not listed. -/
theorem Memory.lookup_eq_none_of_lt (h : ∀ c ∈ m, a < c.1) : m.lookup a = none := by
  induction m with
  | nil => rfl
  | cons c m ih =>
    have hc := h c (by simp)
    simp [Memory.lookup, Nat.ne_of_lt hc, ih fun d hd => h d (by simp [hd])]

theorem Memory.mem_insert {c : Host.Cell} (h : c ∈ m.insert a b) : c = (a, b) ∨ c ∈ m := by
  induction m with
  | nil => simpa [Memory.insert] using h
  | cons d m ih =>
    simp only [Memory.insert] at h
    split_ifs at h with h₁ h₂
    · simpa using h
    · rcases List.mem_cons.mp h with h | h
      · exact .inl h
      · exact .inr (List.mem_cons_of_mem _ h)
    · rcases List.mem_cons.mp h with h | h
      · exact .inr (h ▸ List.mem_cons_self ..)
      · exact (ih h).imp id (List.mem_cons_of_mem _)

theorem Memory.mem_erase {c : Host.Cell} (h : c ∈ m.erase a) : c ∈ m := (List.mem_filter.mp h).1

theorem Memory.pairwise_insert (hm : m.Pairwise fun c d => c.1 < d.1) :
    (m.insert a b).Pairwise fun c d => c.1 < d.1 := by
  induction m with
  | nil => simp [Memory.insert]
  | cons d m ih =>
    have ⟨hd, hm'⟩ := List.pairwise_cons.mp hm
    simp only [Memory.insert]
    split_ifs with h₁ h₂
    · refine List.pairwise_cons.mpr ⟨fun e he => ?_, hm⟩
      rcases List.mem_cons.mp he with he | he
      · exact he ▸ h₁
      · exact Nat.lt_trans h₁ (hd e he)
    · exact List.pairwise_cons.mpr ⟨fun e he => h₂ ▸ hd e he, hm'⟩
    · refine List.pairwise_cons.mpr ⟨fun e he => ?_, ih hm'⟩
      rcases Memory.mem_insert he with he | he
      · subst he
        exact Nat.lt_of_le_of_ne (Nat.le_of_not_lt h₁) (Ne.symm h₂)
      · exact hd e he

theorem Memory.pairwise_erase (hm : m.Pairwise fun c d => c.1 < d.1) :
    (m.erase a).Pairwise fun c d => c.1 < d.1 := hm.filter _

/-! ## Read and write (R52, R53) -/

/-- A read gives the byte last written to the address. -/
theorem Memory.read_write_same : (m.write bg a b).read bg a = b := by
  simp only [Memory.read, Memory.write]
  split_ifs with h
  · simp [Memory.lookup_erase_same, h]
  · simp [Memory.lookup_insert_same]

/-- A write leaves every other address alone. -/
theorem Memory.read_write_of_ne (h : a' ≠ a) : (m.write bg a b).read bg a' = m.read bg a' := by
  simp only [Memory.read, Memory.write]
  split_ifs
  · rw [Memory.lookup_erase_of_ne h]
  · rw [Memory.lookup_insert_of_ne h]

/-- A write below 4096 keeps the canonical form. -/
theorem Memory.write_wf (hm : m.wf bg) (ha : a < 4096) : (m.write bg a b).wf bg := by
  simp only [Memory.write]
  split_ifs with h
  · exact ⟨Memory.pairwise_erase hm.1, fun c hc => hm.2 c (Memory.mem_erase hc)⟩
  · refine ⟨Memory.pairwise_insert hm.1, fun c hc => ?_⟩
    rcases Memory.mem_insert hc with hc | hc
    · subst hc
      exact ⟨ha, h⟩
    · exact hm.2 c hc

/-- The empty list is canonical: `State.reset`'s memory lists nothing. -/
theorem Memory.nil_wf : Memory.wf bg [] := ⟨List.Pairwise.nil, by simp⟩

/-- The memory of `State.reset` is canonical. -/
theorem State.reset_mem_wf : State.reset.mem.wf State.reset.image := Memory.nil_wf

/-! ## A store of several bytes -/

variable (s : State)

/-- All that a store writes is memory: the state after it is the state before it with another memory. -/
theorem State.writeBytes_eq (base : Nat) (bs : List Byte) :
    s.writeBytes base bs = { s with mem := (s.writeBytes base bs).mem } := by
  induction bs generalizing s base with
  | nil => rfl
  | cons b bs ih => rw [State.writeBytes, ih]; rfl

@[simp] theorem State.writeBytes_cfg (base : Nat) (bs : List Byte) : (s.writeBytes base bs).cfg = s.cfg := by
  rw [State.writeBytes_eq]
@[simp] theorem State.writeBytes_image (base : Nat) (bs : List Byte) : (s.writeBytes base bs).image = s.image := by
  rw [State.writeBytes_eq]; rfl
@[simp] theorem State.writeBytes_v (base : Nat) (bs : List Byte) : (s.writeBytes base bs).v = s.v := by
  rw [State.writeBytes_eq]
@[simp] theorem State.writeBytes_reg (base : Nat) (bs : List Byte) (r : Reg) :
    (s.writeBytes base bs).reg r = s.reg r := by rw [State.writeBytes_eq]; rfl
@[simp] theorem State.writeBytes_i (base : Nat) (bs : List Byte) : (s.writeBytes base bs).i = s.i := by
  rw [State.writeBytes_eq]
@[simp] theorem State.writeBytes_pc (base : Nat) (bs : List Byte) : (s.writeBytes base bs).pc = s.pc := by
  rw [State.writeBytes_eq]
@[simp] theorem State.writeBytes_stack (base : Nat) (bs : List Byte) : (s.writeBytes base bs).stack = s.stack := by
  rw [State.writeBytes_eq]
@[simp] theorem State.writeBytes_fb (base : Nat) (bs : List Byte) : (s.writeBytes base bs).fb = s.fb := by
  rw [State.writeBytes_eq]
@[simp] theorem State.writeBytes_dt (base : Nat) (bs : List Byte) : (s.writeBytes base bs).dt = s.dt := by
  rw [State.writeBytes_eq]
@[simp] theorem State.writeBytes_st (base : Nat) (bs : List Byte) : (s.writeBytes base bs).st = s.st := by
  rw [State.writeBytes_eq]
@[simp] theorem State.writeBytes_keys (base : Nat) (bs : List Byte) : (s.writeBytes base bs).keys = s.keys := by
  rw [State.writeBytes_eq]
@[simp] theorem State.writeBytes_mode (base : Nat) (bs : List Byte) : (s.writeBytes base bs).mode = s.mode := by
  rw [State.writeBytes_eq]
@[simp] theorem State.writeBytes_dc (base : Nat) (bs : List Byte) : (s.writeBytes base bs).dc = s.dc := by
  rw [State.writeBytes_eq]
@[simp] theorem State.writeBytes_fault (base : Nat) (bs : List Byte) : (s.writeBytes base bs).fault = s.fault := by
  rw [State.writeBytes_eq]
@[simp] theorem State.writeBytes_rndCount (base : Nat) (bs : List Byte) :
    (s.writeBytes base bs).rndCount = s.rndCount := by rw [State.writeBytes_eq]

theorem State.readByte_writeByte_of_ne {a a' : Nat} (b : Byte) (h : a' ≠ a) :
    (s.writeByte a b).readByte a' = s.readByte a' := Memory.read_write_of_ne h

theorem State.readByte_writeByte_same (a : Nat) (b : Byte) :
    (s.writeByte a b).readByte a = b := Memory.read_write_same

/-- A store leaves every address outside its range alone. -/
theorem State.readByte_writeBytes_outside {base a : Nat} {bs : List Byte} (h : a < base ∨ base + bs.length ≤ a) :
    (s.writeBytes base bs).readByte a = s.readByte a := by
  induction bs generalizing s base with
  | nil => rfl
  | cons b bs ih =>
    simp only [List.length_cons] at h
    rw [State.writeBytes, ih (base := base + 1) (h := by omega), State.readByte_writeByte_of_ne _ _ (by omega)]

/-- A store within memory keeps the canonical form. -/
theorem State.writeBytes_wf (hm : s.mem.wf s.image) {base : Nat} {bs : List Byte} (h : base + bs.length ≤ 4096) :
    (s.writeBytes base bs).mem.wf s.image := by
  induction bs generalizing s base with
  | nil => exact hm
  | cons b bs ih =>
    simp only [List.length_cons] at h
    exact ih (s.writeByte base b) (Memory.write_wf hm (by omega)) (base := base + 1) (by omega)

/-- A store puts its `k`-th byte at `base + k`. -/
theorem State.readByte_writeBytes_inside {base : Nat} {bs : List Byte} {k : Nat} (hk : k < bs.length) :
    (s.writeBytes base bs).readByte (base + k) = bs[k] := by
  induction bs generalizing s base k with
  | nil => simp at hk
  | cons b bs ih =>
    rw [State.writeBytes]
    cases k with
    | zero =>
      rw [State.readByte_writeBytes_outside _ (by omega)]
      exact s.readByte_writeByte_same base b
    | succ k =>
      have := ih (s.writeByte base b) (base := base + 1) (k := k) (by simpa using hk)
      rw [show base + (k + 1) = base + 1 + k by omega, this, List.getElem_cons_succ]

end Sys2Proof.Machine
end

