-- ==== Sys2Proof/Laws/Registers.lean ====
section
/-! SUPPORT. What a register write, a flagged result, a register load, a pop and a range check do. -/

namespace Sys2Proof.Machine

variable (s : State)

/-- `V[r] <- b` read back: `b` at `r`, every other register as before. -/
theorem State.reg_setReg (r q : Reg) (b : Byte) : (s.setReg r b).reg q = if q = r then b else s.reg q := by
  simp only [State.reg, State.setReg, Fin.getElem_fin, Vector.getElem_set]
  split_ifs with h₁ h₂ h₂
  · rfl
  · exact absurd (Fin.ext h₁.symm) h₂
  · exact absurd (congrArg Fin.val h₂).symm h₁
  · rfl

/-- A flagged result read back: the flag in VF, the result in `V[x]` unless `x` is VF (R130). -/
theorem State.reg_setResultFlag (x q : Reg) (b : Byte) (f : Bool) :
    (s.setResultFlag x b f).reg q = if q = Reg.vf then flagByte f else if q = x then b else s.reg q := by
  simp only [State.setResultFlag, State.reg_setReg]

/-- All that a flagged result writes is the registers. -/
theorem State.setResultFlag_eq (x : Reg) (b : Byte) (f : Bool) :
    s.setResultFlag x b f = { s with v := (s.setResultFlag x b f).v } := rfl

/-- A register load read back (R192). -/
theorem State.reg_loadRegsFrom (base : Nat) (x q : Reg) :
    (s.loadRegsFrom base x).reg q = if q ≤ x then s.readByte (base + q.val) else s.reg q := by
  simp only [State.reg, State.loadRegsFrom, Fin.getElem_fin, Vector.getElem_ofFn]

/-- All that a register load writes is the registers. -/
theorem State.loadRegsFrom_eq (base : Nat) (x : Reg) :
    s.loadRegsFrom base x = { s with v := (s.loadRegsFrom base x).v } := rfl

/-- `V[0]` to `V[x]`: there are `x + 1` of them. -/
@[simp] theorem State.regsUpTo_length (x : Reg) : (s.regsUpTo x).length = x.val + 1 := by
  simp [State.regsUpTo, regCount]

/-- `V[0]` to `V[x]`: the `k`-th is `V[k]`. -/
theorem State.regsUpTo_getElem (x : Reg) (k : Nat) (hk : k < (s.regsUpTo x).length) (hk' : k < 16) :
    (s.regsUpTo x)[k] = s.reg ⟨k, hk'⟩ := by
  simp [State.regsUpTo, State.reg]

/-- Equal registers are equal register files. -/
theorem State.v_eq_of_reg {s t : State} (h : ∀ r, t.reg r = s.reg r) : t.v = s.v :=
  Vector.ext fun k hk => h ⟨k, hk⟩

/-- Pop of a stack with top `w`. -/
theorem State.pop_concat {st : List Word} {w : Word} (h : s.stack = st ++ [w]) :
    s.pop = some (w, { s with stack := st }) := by
  simp [State.pop, h]

/-- Pop of the empty stack. -/
theorem State.pop_nil (h : s.stack = []) : s.pop = none := by simp [State.pop, h]

/-- All that a pop can do. -/
theorem State.pop_cases :
    (s.stack = [] ∧ s.pop = none) ∨
      ∃ st w, s.stack = st ++ [w] ∧ s.pop = some (w, { s with stack := st }) := by
  rcases List.eq_nil_or_concat s.stack with h | ⟨st, w, h⟩
  · exact .inl ⟨h, s.pop_nil h⟩
  · rw [List.concat_eq_append] at h
    exact .inr ⟨st, w, h, s.pop_concat h⟩

/-- The bound of an access (R51, R58). -/
theorem rangeOk_iff {base len : Nat} : rangeOk base len = true ↔ len = 0 ∨ base + len ≤ 4096 := by
  simp only [rangeOk, Bool.or_eq_true, beq_iff_eq, decide_eq_true_eq]
  rfl

theorem rangeOk_eq_false_iff {base len : Nat} : rangeOk base len = false ↔ 0 < len ∧ 4096 < base + len := by
  rw [← Bool.not_eq_true, rangeOk_iff]
  omega

/-- A key code is 0 to 15 (R222). -/
theorem keyWellFormed_iff {k : Nat} : Key.wellFormed k = true ↔ k < 16 := decide_eq_true_iff

/-- A PROGRAM has at most 3584 bytes (R242). -/
theorem programWellFormed_iff {p : List Byte} : Program.wellFormed p = true ↔ p.length ≤ 3584 := decide_eq_true_iff

/-- The stack is full when it holds STACK_DEPTH entries (R28). -/
theorem State.stackFull_iff : s.stackFull = true ↔ s.cfg.stackDepth = some s.stack.length := by
  simp [State.stackFull]

theorem State.halted_iff : s.halted = true ↔ s.fault ≠ none := by
  simp [State.halted, Option.isSome_iff_ne_none]

theorem State.not_halted (h : s.fault = none) : s.halted = false := by simp [State.halted, h]

/-- A skip moves `PC` by 2 more or not at all, and nothing else. -/
theorem State.skipIf_eq (c : Bool) : s.skipIf c = { s with pc := if c then s.pc + 2 else s.pc } := by
  cases c <;> rfl

/-- All that fetch can do (R55). -/
theorem State.fetch_cases :
    (4096 < s.pc.toNat + 2 ∧ s.fetch = none) ∨
      (s.pc.toNat + 2 ≤ 4096 ∧ s.fetch = some (s.wordAt s.pc.toNat, s.advance)) := by
  unfold State.fetch
  by_cases h : rangeOk s.pc.toNat 2 = true
  · have := rangeOk_iff.mp h
    exact .inr ⟨by omega, by simp [h]⟩
  · have := rangeOk_eq_false_iff.mp (Bool.not_eq_true _ ▸ h)
    exact .inl ⟨this.2, by simp [h]⟩

/-- All that STEP can do: nothing on a halted machine; a fetch fault; a decode fault; the decoded instruction's execution. -/
theorem step_cases :
    (s.fault ≠ none ∧ step s = .next s) ∨
      (s.fault = none ∧ 4096 < s.pc.toNat + 2 ∧ step s = .next s.raiseFetch) ∨
      (s.fault = none ∧ s.pc.toNat + 2 ≤ 4096 ∧ (∃ e, decode (s.wordAt s.pc.toNat) = .error e) ∧
        step s = .next (s.advance.raiseInvalid (s.wordAt s.pc.toNat))) ∨
      ∃ i, s.fault = none ∧ s.pc.toNat + 2 ≤ 4096 ∧ decode (s.wordAt s.pc.toNat) = .ok i ∧
        step s = exec i s.advance := by
  by_cases hf : s.fault = none
  · refine .inr ?_
    rcases s.fetch_cases with ⟨hp, h⟩ | ⟨hp, h⟩
    · exact .inl ⟨hf, hp, by simp [step, s.not_halted hf, h]⟩
    · refine .inr ?_
      cases hd : decode (s.wordAt s.pc.toNat) with
      | error e => exact .inl ⟨hf, hp, ⟨e, rfl⟩, by simp [step, s.not_halted hf, h, hd]⟩
      | ok i => exact .inr ⟨i, hf, hp, rfl, by simp [step, s.not_halted hf, h, hd]⟩
  · exact .inl ⟨hf, by simp [step, s.halted_iff.mpr hf]⟩

end Sys2Proof.Machine
end

