-- ==== Sys2Proof/Laws/Display.lean ====
section
/-! SUPPORT. Pixels of the framebuffer under the drawing operations (45_display.md R160 to R163). -/

namespace Sys2Proof.Machine

/-- The sprite bit of byte `b`, drawn from column `x0`, that falls on screen column `col` (R160). -/
theorem spriteMask_getMsbD (b : Byte) (x0 col : Nat) (hc : col < 64) :
    (spriteMask b x0).getMsbD col = (decide (x0 ≤ col) && decide (col < x0 + 8) && b.getLsbD (7 - (col - x0))) := by
  simp only [spriteMask, BitVec.getMsbD_ushiftRight, BitVec.getMsbD_append]
  by_cases h₁ : x0 ≤ col
  · by_cases h₂ : col < x0 + 8
    · have h₃ : col - x0 < 8 := by omega
      have h₄ : ¬ col < x0 := by omega
      simp [h₁, h₂, h₃, h₄, hc, BitVec.getMsbD_eq_getLsbD]
    · simp [h₂, show ¬ col - x0 < 8 by omega]
  · simp [h₁, show col < x0 by omega]

theorem FrameBuffer.blank_pixel (row col : Nat) : FrameBuffer.blank.pixel row col = false := by
  simp [FrameBuffer.pixel, FrameBuffer.blank]

/-- Equal pixels are equal framebuffers. -/
theorem FrameBuffer.ext_pixel {f g : FrameBuffer} (h : ∀ row < 32, ∀ col < 64, f.pixel row col = g.pixel row col) :
    f = g := by
  refine Vector.ext fun row hr => BitVec.eq_of_getMsbD_eq fun col hc => ?_
  have := h row hr col hc
  simpa [FrameBuffer.pixel, hr] using this

/-- The pixels after one row is drawn: exclusive-or on that row, the others as before (R163). -/
theorem drawRow_pixel (fb : FrameBuffer) (j : Nat) (mask : BitVec 64) (row col : Nat) (hr : row < 32) :
    (drawRow fb j mask).1.pixel row col = (fb.pixel row col ^^ (decide (row = j) && mask.getMsbD col)) := by
  unfold drawRow
  by_cases hj : j < 32
  · by_cases h : row = j
    · subst h
      simp [FrameBuffer.pixel, hr]
    · simp [FrameBuffer.pixel, hr, hj, h, Ne.symm h]
  · have : row ≠ j := by omega
    simp [hj, this]

/-- One row collides when it has a bit on a lit pixel of its screen row (R163). -/
theorem drawRow_collides (fb : FrameBuffer) (j : Nat) (mask : BitVec 64) :
    (drawRow fb j mask).2 = true ↔ j < 32 ∧ ∃ col < 64, fb.pixel j col = true ∧ mask.getMsbD col = true := by
  unfold drawRow
  by_cases hj : j < 32
  · simp only [hj, dite_true, true_and, bne_iff_ne, ne_eq, FrameBuffer.pixel]
    constructor
    · intro h
      by_contra hn
      refine h (BitVec.eq_of_getMsbD_eq fun col hc => ?_)
      have := fun h₁ h₂ => hn ⟨col, hc, h₁, h₂⟩
      rw [BitVec.getMsbD_and]
      rw [show BitVec.getMsbD (0 : BitVec 64) col = false from BitVec.getMsbD_zero]
      by_contra hb
      simp at hb
      exact this hb.1 hb.2
    · rintro ⟨col, _, h₁, h₂⟩ h
      have := congrArg (fun z => z.getMsbD col) h
      simp [h₁, h₂] at this
  · simp [hj]

/-- The sprite bit that falls on screen position (`row`, `col`) when the rows `bs` are drawn from (`x0`, `y0`), with no
clipping beyond the caller's own bounds (R160, R162). -/
theorem drawSprite_pixel (x0 : Nat) (fb : FrameBuffer) (y0 : Nat) (bs : List Byte) (row col : Nat) (hr : row < 32)
    (hc : col < 64) :
    (drawSprite x0 fb y0 bs).1.pixel row col =
      (fb.pixel row col ^^
        (decide (y0 ≤ row) && (spriteMask (bs.getD (row - y0) 0) x0).getMsbD col)) := by
  have hzero : (spriteMask 0#8 x0).getMsbD col = false := by simp [spriteMask_getMsbD _ _ _ hc]
  induction bs generalizing fb y0 with
  | nil => simp [drawSprite, hzero]
  | cons b bs ih =>
    rw [drawSprite]
    simp only []
    rw [ih, drawRow_pixel _ _ _ _ _ hr]
    rcases Nat.lt_trichotomy row y0 with h | h | h
    · simp [show ¬ y0 + 1 ≤ row by omega, show ¬ y0 ≤ row by omega, Nat.ne_of_lt h]
    · subst h
      simp
    · rw [show row - y0 = (row - (y0 + 1)) + 1 by omega]
      simp [Nat.le_of_lt h, h, Nat.ne_of_gt h]

end Sys2Proof.Machine
end

