-- ==== Sys2Proof/Laws/Exec.lean ====
section
/-! SUPPORT. All that the instructions with more than one outcome can do, one lemma each, so that no later proof unfolds their
meaning. Every other meaning answers one next state by definition. -/

namespace Sys2Proof.Machine

variable (s : State)

/-- RET: underflow, or a pop and a jump to the popped address (R100, R201). -/
theorem execRet_cases :
    (s.stack = [] ∧ execRet s = .next (s.raiseIn .ret .stackUnderflow none)) ∨
      ∃ st w, s.stack = st ++ [w] ∧ execRet s = .next (State.jump { s with stack := st } w) := by
  rcases s.pop_cases with ⟨hs, hp⟩ | ⟨st, w, hs, hp⟩
  · exact .inl ⟨hs, by simp only [execRet, hp]⟩
  · exact .inr ⟨st, w, hs, by simp only [execRet, hp]⟩

/-- CALL: overflow, or a push and a jump (R102, R202). -/
theorem execCall_cases (nnn : BitVec 12) :
    (s.cfg.stackDepth = some s.stack.length ∧ execCall nnn s = .next (s.raiseIn (.call nnn) .stackOverflow none)) ∨
      (s.cfg.stackDepth ≠ some s.stack.length ∧ execCall nnn s = .next ((s.push s.pc).jump (zextAddr nnn))) := by
  by_cases h : s.stackFull = true
  · exact .inl ⟨s.stackFull_iff.mp h, by simp only [execCall, if_pos h]⟩
  · exact .inr ⟨mt s.stackFull_iff.mpr h, by simp only [execCall, if_neg h]⟩

/-- ADD I, Vx: out of bounds, or the sum (R152, R207). -/
theorem execAddI_cases (x : Reg) :
    (0xFFFF < s.i.toNat + (s.reg x).toNat ∧
        execAddI x s = .next (s.raiseIn (.addI x) .outOfBounds (some (s.i.toNat + (s.reg x).toNat)))) ∨
      (s.i.toNat + (s.reg x).toNat ≤ 0xFFFF ∧
        execAddI x s = .next (s.setIndex (BitVec.ofNat 16 (s.i.toNat + (s.reg x).toNat)))) := by
  by_cases h : 0xFFFF < s.i.toNat + (s.reg x).toNat
  · exact .inl ⟨h, by simp only [execAddI, if_pos h]⟩
  · exact .inr ⟨by omega, by simp only [execAddI, if_neg h]⟩

/-- DRW: out of bounds, or the sprite drawn, the collision flag and `DC` (R162, R207). -/
theorem execDrw_cases (x y : Reg) (n : Fin 16) :
    ((0 < n.val ∧ 4096 < s.i.toNat + n.val) ∧ execDrw x y n s = .next (s.raiseRange (.drw x y n) s.i.toNat)) ∨
      ((n.val = 0 ∨ s.i.toNat + n.val ≤ 4096) ∧ ∃ drawn,
        drawn = drawSprite (spriteColumn (s.reg x)) s.fb (spriteTop (s.reg y)) (s.readBytes s.i.toNat n.val) ∧
        execDrw x y n s = .next ((s.setReg Reg.vf (flagByte drawn.2)).present drawn.1)) := by
  by_cases h : rangeOk s.i.toNat n.val = true
  · exact .inr ⟨rangeOk_iff.mp h, _, rfl, by simp only [execDrw, if_pos h]⟩
  · exact .inl ⟨rangeOk_eq_false_iff.mp (Bool.not_eq_true _ ▸ h), by simp only [execDrw, if_neg h]⟩

/-- LD Vx, K: poll again, or the lowest held key (R172). -/
theorem execLdVxK_cases (x : Reg) :
    (lowestKey s.keys = none ∧ execLdVxK x s = .next (s.jump (s.pc - 2))) ∨
      ∃ k, lowestKey s.keys = some k ∧ execLdVxK x s = .next (s.setReg x (BitVec.ofNat 8 k)) := by
  cases h : lowestKey s.keys with
  | none => exact .inl ⟨rfl, by simp only [execLdVxK, h]⟩
  | some k => exact .inr ⟨k, rfl, by simp only [execLdVxK, h]⟩

/-- LD B, Vx: out of bounds, or three digits stored (R190, R207). -/
theorem execLdB_cases (x : Reg) :
    (4096 < s.i.toNat + 3 ∧ execLdB x s = .next (s.raiseRange (.ldB x) s.i.toNat)) ∨
      (s.i.toNat + 3 ≤ 4096 ∧ execLdB x s = .next (s.writeBytes s.i.toNat (bcdDigits (s.reg x)))) := by
  by_cases h : rangeOk s.i.toNat 3 = true
  · exact .inr ⟨(rangeOk_iff.mp h).resolve_left (by decide), by simp only [execLdB, if_pos h]⟩
  · exact .inl ⟨(rangeOk_eq_false_iff.mp (Bool.not_eq_true _ ▸ h)).2, by simp only [execLdB, if_neg h]⟩

/-- LD [I], Vx: out of bounds, or V0 to Vx stored (R191, R207). -/
theorem execStoreRegs_cases (x : Reg) :
    (4096 < s.i.toNat + (x.val + 1) ∧ execStoreRegs x s = .next (s.raiseRange (.storeRegs x) s.i.toNat)) ∨
      (s.i.toNat + (x.val + 1) ≤ 4096 ∧ execStoreRegs x s = .next (s.writeBytes s.i.toNat (s.regsUpTo x))) := by
  by_cases h : rangeOk s.i.toNat (regCount x) = true
  · exact .inr ⟨(rangeOk_iff.mp h).resolve_left (Nat.succ_ne_zero _), by simp only [execStoreRegs, if_pos h]⟩
  · exact .inl ⟨(rangeOk_eq_false_iff.mp (Bool.not_eq_true _ ▸ h)).2, by simp only [execStoreRegs, if_neg h]⟩

/-- LD Vx, [I]: out of bounds, or V0 to Vx loaded (R192, R207). -/
theorem execLoadRegs_cases (x : Reg) :
    (4096 < s.i.toNat + (x.val + 1) ∧ execLoadRegs x s = .next (s.raiseRange (.loadRegs x) s.i.toNat)) ∨
      (s.i.toNat + (x.val + 1) ≤ 4096 ∧ execLoadRegs x s = .next (s.loadRegsFrom s.i.toNat x)) := by
  by_cases h : rangeOk s.i.toNat (regCount x) = true
  · exact .inr ⟨(rangeOk_iff.mp h).resolve_left (Nat.succ_ne_zero _), by simp only [execLoadRegs, if_pos h]⟩
  · exact .inl ⟨(rangeOk_eq_false_iff.mp (Bool.not_eq_true _ ▸ h)).2, by simp only [execLoadRegs, if_neg h]⟩

end Sys2Proof.Machine
end

