-- ==== Sys2Proof/Laws/PerInstr.lean ====
section
/-! SUPPORT. Statements made for every instruction, one lemma a constructor. -/

namespace Sys2Proof.Laws.Encoding

/-- The word of an instruction lies in the instruction's row of the opcode map: `w & mask = match` (30_encoding.md R75). -/
def Statement (i : Instr) : Prop := (opcodeRow i).holds (encode i) = true

/-- It is enough that the word under the mask is the row's match. -/
theorem of_masked {i : Instr} (h : encode i &&& (opcodeRow i).mask = (opcodeRow i).bits) : Statement i := by
  simpa [Statement, OpcodeRow.holds] using h

theorem cls : Statement (.cls) :=
  of_masked (by simp [encode, opcodeRow, and_FFFF])

theorem ret : Statement (.ret) :=
  of_masked (by simp [encode, opcodeRow, and_FFFF])

theorem jp (nnn : BitVec 12) : Statement (.jp nnn) :=
  of_masked (by simp [encode, opcodeRow, and_F000])

theorem call (nnn : BitVec 12) : Statement (.call nnn) :=
  of_masked (by simp [encode, opcodeRow, and_F000])

theorem seImm (x : Reg) (nn : Byte) : Statement (.seImm x nn) :=
  of_masked (by simp [encode, opcodeRow, and_F000])

theorem sneImm (x : Reg) (nn : Byte) : Statement (.sneImm x nn) :=
  of_masked (by simp [encode, opcodeRow, and_F000])

theorem seReg (x : Reg) (y : Reg) : Statement (.seReg x y) :=
  of_masked (by simp [encode, opcodeRow, and_F00F])

theorem ldImm (x : Reg) (nn : Byte) : Statement (.ldImm x nn) :=
  of_masked (by simp [encode, opcodeRow, and_F000])

theorem addImm (x : Reg) (nn : Byte) : Statement (.addImm x nn) :=
  of_masked (by simp [encode, opcodeRow, and_F000])

theorem ldReg (x : Reg) (y : Reg) : Statement (.ldReg x y) :=
  of_masked (by simp [encode, opcodeRow, and_F00F])

theorem orReg (x : Reg) (y : Reg) : Statement (.orReg x y) :=
  of_masked (by simp [encode, opcodeRow, and_F00F])

theorem andReg (x : Reg) (y : Reg) : Statement (.andReg x y) :=
  of_masked (by simp [encode, opcodeRow, and_F00F])

theorem xorReg (x : Reg) (y : Reg) : Statement (.xorReg x y) :=
  of_masked (by simp [encode, opcodeRow, and_F00F])

theorem addReg (x : Reg) (y : Reg) : Statement (.addReg x y) :=
  of_masked (by simp [encode, opcodeRow, and_F00F])

theorem subReg (x : Reg) (y : Reg) : Statement (.subReg x y) :=
  of_masked (by simp [encode, opcodeRow, and_F00F])

theorem shr (x : Reg) (y : Reg) : Statement (.shr x y) :=
  of_masked (by simp [encode, opcodeRow, and_F00F])

theorem subnReg (x : Reg) (y : Reg) : Statement (.subnReg x y) :=
  of_masked (by simp [encode, opcodeRow, and_F00F])

theorem shl (x : Reg) (y : Reg) : Statement (.shl x y) :=
  of_masked (by simp [encode, opcodeRow, and_F00F])

theorem sneReg (x : Reg) (y : Reg) : Statement (.sneReg x y) :=
  of_masked (by simp [encode, opcodeRow, and_F00F])

theorem ldI (nnn : BitVec 12) : Statement (.ldI nnn) :=
  of_masked (by simp [encode, opcodeRow, and_F000])

theorem jpV0 (nnn : BitVec 12) : Statement (.jpV0 nnn) :=
  of_masked (by simp [encode, opcodeRow, and_F000])

theorem rnd (x : Reg) (nn : Byte) : Statement (.rnd x nn) :=
  of_masked (by simp [encode, opcodeRow, and_F000])

theorem drw (x : Reg) (y : Reg) (n : Fin 16) : Statement (.drw x y n) :=
  of_masked (by simp [encode, opcodeRow, and_F000])

theorem skp (x : Reg) : Statement (.skp x) :=
  of_masked (by simp [encode, opcodeRow, and_F0FF])

theorem sknp (x : Reg) : Statement (.sknp x) :=
  of_masked (by simp [encode, opcodeRow, and_F0FF])

theorem ldVxDt (x : Reg) : Statement (.ldVxDt x) :=
  of_masked (by simp [encode, opcodeRow, and_F0FF])

theorem ldVxK (x : Reg) : Statement (.ldVxK x) :=
  of_masked (by simp [encode, opcodeRow, and_F0FF])

theorem ldDtVx (x : Reg) : Statement (.ldDtVx x) :=
  of_masked (by simp [encode, opcodeRow, and_F0FF])

theorem ldStVx (x : Reg) : Statement (.ldStVx x) :=
  of_masked (by simp [encode, opcodeRow, and_F0FF])

theorem addI (x : Reg) : Statement (.addI x) :=
  of_masked (by simp [encode, opcodeRow, and_F0FF])

theorem ldF (x : Reg) : Statement (.ldF x) :=
  of_masked (by simp [encode, opcodeRow, and_F0FF])

theorem ldB (x : Reg) : Statement (.ldB x) :=
  of_masked (by simp [encode, opcodeRow, and_F0FF])

theorem storeRegs (x : Reg) : Statement (.storeRegs x) :=
  of_masked (by simp [encode, opcodeRow, and_F0FF])

theorem loadRegs (x : Reg) : Statement (.loadRegs x) :=
  of_masked (by simp [encode, opcodeRow, and_F0FF])

end Sys2Proof.Laws.Encoding
end

