-- ==== Sys2Proof/Tests/Slice0.lean ====
section
/-! SUPPORT. The model's own tests. Every expected value comes from the spec: words from 30_encoding.md R71 to R76, effects from
the vectors of 95_test_vectors.md that the comment names, else from the rule named. The witnesses show that the hypotheses of
each statement of Certificates/Slice0/Obligations.lean can be met, each clause at a boundary value of its range. -/

namespace Sys2Proof.Tests

open Sys2Proof Sys2Proof.Machine

/-! ## WellFormed: each check refuses an ill-formed term -/

theorem test_wellFormed_key : Key.wellFormed 15 = true ∧ Key.wellFormed 16 = false := by decide
theorem test_wellFormed_program_longest : Program.wellFormed (List.replicate 3584 0) = true := by
  rw [Program.wellFormed, List.length_replicate]; decide
theorem test_wellFormed_program_too_long : Program.wellFormed (List.replicate 3585 0) = false := by
  rw [Program.wellFormed, List.length_replicate]; decide
theorem test_wellFormed_nibble : Operand.nibbleWellFormed 15 = true ∧ Operand.nibbleWellFormed 16 = false := by decide
theorem test_wellFormed_byte : Operand.byteWellFormed 255 = true ∧ Operand.byteWellFormed 256 = false := by decide
theorem test_wellFormed_address : Operand.addressWellFormed 4095 = true ∧ Operand.addressWellFormed 4096 = false := by decide

/-! ## Decode: one word for each constructor, its bits written out from R75: op, then the fields -/

theorem test_decode_cls : decode 0b0000000011100000#16 = .ok .cls := by decide
theorem test_decode_ret : decode 0b0000000011101110#16 = .ok .ret := by decide
theorem test_decode_jp : decode 0b0001101010111100#16 = .ok (.jp 0xABC) := by decide
theorem test_decode_call : decode 0b0010001100000001#16 = .ok (.call 0x301) := by decide
theorem test_decode_seImm : decode 0b0011101001000010#16 = .ok (.seImm 10 0x42) := by decide
theorem test_decode_sneImm : decode 0b0100010110000001#16 = .ok (.sneImm 5 0x81) := by decide
theorem test_decode_seReg : decode 0b0101000100100000#16 = .ok (.seReg 1 2) := by decide
theorem test_decode_ldImm : decode 0b0110111100000001#16 = .ok (.ldImm 15 0x01) := by decide
theorem test_decode_addImm : decode 0b0111101011111110#16 = .ok (.addImm 10 0xFE) := by decide
theorem test_decode_ldReg : decode 0b1000000100100000#16 = .ok (.ldReg 1 2) := by decide
theorem test_decode_orReg : decode 0b1000000100100001#16 = .ok (.orReg 1 2) := by decide
theorem test_decode_andReg : decode 0b1000000100100010#16 = .ok (.andReg 1 2) := by decide
theorem test_decode_xorReg : decode 0b1000000100100011#16 = .ok (.xorReg 1 2) := by decide
theorem test_decode_addReg : decode 0b1000111100010100#16 = .ok (.addReg 15 1) := by decide
theorem test_decode_subReg : decode 0b1000000111110101#16 = .ok (.subReg 1 15) := by decide
theorem test_decode_shr : decode 0b1000000100100110#16 = .ok (.shr 1 2) := by decide
theorem test_decode_subnReg : decode 0b1000000100100111#16 = .ok (.subnReg 1 2) := by decide
theorem test_decode_shl : decode 0b1000111000111110#16 = .ok (.shl 14 3) := by decide
theorem test_decode_sneReg : decode 0b1001000100100000#16 = .ok (.sneReg 1 2) := by decide
theorem test_decode_ldI : decode 0b1010000100100011#16 = .ok (.ldI 0x123) := by decide
theorem test_decode_jpV0 : decode 0b1011001101000101#16 = .ok (.jpV0 0x345) := by decide
theorem test_decode_rnd : decode 0b1100000111110000#16 = .ok (.rnd 1 0xF0) := by decide
theorem test_decode_drw : decode 0b1101111100010101#16 = .ok (.drw 15 1 5) := by decide
theorem test_decode_skp : decode 0b1110101010011110#16 = .ok (.skp 10) := by decide
theorem test_decode_sknp : decode 0b1110010110100001#16 = .ok (.sknp 5) := by decide
theorem test_decode_ldVxDt : decode 0b1111001100000111#16 = .ok (.ldVxDt 3) := by decide
theorem test_decode_ldVxK : decode 0b1111010100001010#16 = .ok (.ldVxK 5) := by decide
theorem test_decode_ldDtVx : decode 0b1111111100010101#16 = .ok (.ldDtVx 15) := by decide
theorem test_decode_ldStVx : decode 0b1111000100011000#16 = .ok (.ldStVx 1) := by decide
theorem test_decode_addI : decode 0b1111100000011110#16 = .ok (.addI 8) := by decide
theorem test_decode_ldF : decode 0b1111010000101001#16 = .ok (.ldF 4) := by decide
theorem test_decode_ldB : decode 0b1111001000110011#16 = .ok (.ldB 2) := by decide
theorem test_decode_storeRegs : decode 0b1111001101010101#16 = .ok (.storeRegs 3) := by decide
theorem test_decode_loadRegs : decode 0b1111110001100101#16 = .ok (.loadRegs 12) := by decide

/-- Illegal words: T3, T4, T5, T6. -/
theorem test_decode_illegal_0_5_9 : decode 0x0123 = .error (.invalidOpcode 0x0123) ∧ decode 0x00E1 = .error (.invalidOpcode 0x00E1) ∧
    decode 0x5121 = .error (.invalidOpcode 0x5121) ∧ decode 0x912F = .error (.invalidOpcode 0x912F) := by decide
/-- Illegal words: T7, T8, T9. -/
theorem test_decode_illegal_8_E_F : decode 0x8128 = .error (.invalidOpcode 0x8128) ∧ decode 0x812F = .error (.invalidOpcode 0x812F) ∧
    decode 0xE1A2 = .error (.invalidOpcode 0xE1A2) ∧ decode 0xF075 = .error (.invalidOpcode 0xF075) := by decide

theorem test_decode_truncated : decodeBytes [0x12] = .error .truncated := by decide

/-- The host's view: the bits of a table row, and bits above `nbits` cleared. -/
theorem test_decodeTableWord : decodeTableWord 16 0x1234 = some (.jp 0x234) ∧ decodeTableWord 16 0x5121 = none ∧
    decodeTableWord 16 0x71234 = some (.jp 0x234) := by decide

/-! ## One STEP of each instruction -/

/-- The state after reset with the bytes `bs` at 0x200. -/
def program (bs : List Byte) : State := State.reset.writeBytes 0x200 bs

/-- Registers set. -/
def withRegs (s : State) (l : List (Reg × Byte)) : State := l.foldl (fun t p => t.setReg p.1 p.2) s

/-- A framebuffer with one row set. -/
def withRow (s : State) (row : Fin 32) (bits : BitVec 64) : State := { s with fb := s.fb.set row bits }

/-- What `f` sees after an outcome that is a next state. -/
def seen {α : Type} (f : State → α) (o : Host.Outcome State Fault Refusal) : Option α :=
  match o with
  | .next t => some (f t)
  | .fault _ => none
  | .refused _ => none

/-- Whether the fault record is (code, word, pc, addr). -/
def faultIs (s : State) (code : Nat) (word : Option Word) (pc : Word) (addr : Option Nat) : Bool :=
  match s.fault with
  | none => false
  | some r => r.code == code && r.word == word && r.pc == pc && r.addr == addr

/-- T150 -/
theorem test_cls : seen (fun t => (t.fb == FrameBuffer.blank, t.dc, t.reg 15))
    (step (withRegs (withRow (program [0x00, 0xE0]) 3 0xF0) [(15, 0x01)])) =
    some (true, true, 0x01) := by decide
/-- T27 -/
theorem test_ret : seen (fun t => (t.stack, t.pc))
    (step { program [0x00, 0xEE] with stack := [0x202, 0xABE] }) =
    some ([0x202], 0xABE) := by decide
/-- T28 -/
theorem test_ret_underflow : seen (fun t => (t.stack, t.pc, faultIs t 2 (some 0x00EE) 0x202 none))
    (step (program [0x00, 0xEE])) =
    some ([], 0x202, true) := by decide
/-- T20 -/
theorem test_jp : seen (fun t => t.pc)
    (step (program [0x1A, 0xBC])) =
    some 0xABC := by decide
/-- T24 -/
theorem test_call : seen (fun t => (t.stack, t.pc))
    (step (program [0x23, 0x00])) =
    some ([0x202], 0x300) := by decide
/-- T29 -/
theorem test_call_overflow : seen (fun t => (t.stack.length, t.pc, faultIs t 4 (some 0x2300) 0x202 none))
    (step { program [0x23, 0x00] with stack := List.replicate 16 0x202 }) =
    some (16, 0x202, true) := by decide
/-- T40 -/
theorem test_seImm_taken : seen (fun t => t.pc)
    (step (withRegs (program [0x3A, 0x42]) [(10, 0x42)])) =
    some 0x204 := by decide
/-- T41 -/
theorem test_seImm_not_taken : seen (fun t => t.pc)
    (step (withRegs (program [0x3A, 0x42]) [(10, 0x41)])) =
    some 0x202 := by decide
/-- T42 -/
theorem test_sneImm_not_taken : seen (fun t => t.pc)
    (step (withRegs (program [0x4A, 0x42]) [(10, 0x42)])) =
    some 0x202 := by decide
/-- T43 -/
theorem test_sneImm_taken : seen (fun t => t.pc)
    (step (withRegs (program [0x4A, 0x42]) [(10, 0x41)])) =
    some 0x204 := by decide
/-- T44 -/
theorem test_seReg_taken : seen (fun t => t.pc)
    (step (withRegs (program [0x51, 0x20]) [(1, 0x07), (2, 0x07)])) =
    some 0x204 := by decide
/-- T45 -/
theorem test_seReg_not_taken : seen (fun t => t.pc)
    (step (withRegs (program [0x51, 0x20]) [(1, 0x07), (2, 0x08)])) =
    some 0x202 := by decide
/-- T61 -/
theorem test_ldImm : seen (fun t => (t.reg 15, t.pc))
    (step (program [0x6F, 0x01])) =
    some (0x01, 0x202) := by decide
/-- T63 -/
theorem test_addImm : seen (fun t => (t.reg 10, t.reg 15))
    (step (withRegs (program [0x7A, 0xFF]) [(10, 0x01), (15, 0x01)])) =
    some (0x00, 0x01) := by decide
/-- T80 -/
theorem test_ldReg : seen (fun t => (t.reg 1, t.reg 2, t.reg 15))
    (step (withRegs (program [0x81, 0x20]) [(1, 0x11), (2, 0x22), (15, 0x07)])) =
    some (0x22, 0x22, 0x07) := by decide
/-- T81 -/
theorem test_orReg : seen (fun t => (t.reg 1, t.reg 15))
    (step (withRegs (program [0x81, 0x21]) [(1, 0x0F), (2, 0xF0), (15, 0x07)])) =
    some (0xFF, 0x07) := by decide
/-- T82 -/
theorem test_andReg : seen (fun t => (t.reg 1, t.reg 15))
    (step (withRegs (program [0x81, 0x22]) [(1, 0x3C), (2, 0x0F), (15, 0x07)])) =
    some (0x0C, 0x07) := by decide
/-- T83 -/
theorem test_xorReg : seen (fun t => (t.reg 1, t.reg 15))
    (step (withRegs (program [0x81, 0x23]) [(1, 0xFF), (2, 0x0F), (15, 0x07)])) =
    some (0xF0, 0x07) := by decide
/-- T90: the carry overwrites the result 0x10 in VF -/
theorem test_addReg_flag_wins : seen (fun t => t.reg 15)
    (step (withRegs (program [0x8F, 0x14]) [(15, 0xF0), (1, 0x20)])) =
    some 0x01 := by decide
/-- T92: the old VF is the operand -/
theorem test_addReg_reads_old_vf : seen (fun t => (t.reg 1, t.reg 15))
    (step (withRegs (program [0x81, 0xF4]) [(1, 0x05), (15, 0x03)])) =
    some (0x08, 0x00) := by decide
/-- T97 -/
theorem test_subReg_borrow : seen (fun t => (t.reg 1, t.reg 15))
    (step (withRegs (program [0x81, 0x25]) [(1, 0x03), (2, 0x05), (15, 0x01)])) =
    some (0xFE, 0x00) := by decide
/-- T98 -/
theorem test_subReg_equal : seen (fun t => (t.reg 1, t.reg 15))
    (step (withRegs (program [0x81, 0x25]) [(1, 0x07), (2, 0x07)])) =
    some (0x00, 0x01) := by decide
/-- T104: V2 plays no part -/
theorem test_shr : seen (fun t => (t.reg 1, t.reg 2, t.reg 15))
    (step (withRegs (program [0x81, 0x26]) [(1, 0x05), (2, 0xFF)])) =
    some (0x02, 0xFF, 0x01) := by decide
/-- T109 -/
theorem test_shr_flag_wins : seen (fun t => t.reg 15)
    (step (withRegs (program [0x8F, 0x26]) [(15, 0x02)])) =
    some 0x00 := by decide
/-- T110 -/
theorem test_subnReg : seen (fun t => (t.reg 1, t.reg 15))
    (step (withRegs (program [0x81, 0x27]) [(1, 0x03), (2, 0x05)])) =
    some (0x02, 0x01) := by decide
/-- T111 -/
theorem test_subnReg_borrow : seen (fun t => (t.reg 1, t.reg 15))
    (step (withRegs (program [0x81, 0x27]) [(1, 0x05), (2, 0x03)])) =
    some (0xFE, 0x00) := by decide
/-- T115, and T120: the same in extended mode -/
theorem test_shl : seen (fun t => (t.reg 1, t.reg 15))
    (step { withRegs (program [0x81, 0x2E]) [(1, 0x81), (2, 0x00)] with mode := .extended }) =
    some (0x02, 0x01) := by decide
/-- T119 -/
theorem test_shl_flag_wins : seen (fun t => t.reg 15)
    (step (withRegs (program [0x8F, 0x2E]) [(15, 0x41)])) =
    some 0x00 := by decide
/-- T47 -/
theorem test_sneReg_taken : seen (fun t => t.pc)
    (step (withRegs (program [0x91, 0x20]) [(1, 0x07), (2, 0x08)])) =
    some 0x204 := by decide
/-- T48 -/
theorem test_sneReg_not_taken : seen (fun t => t.pc)
    (step (withRegs (program [0x91, 0x20]) [(1, 0x07), (2, 0x07)])) =
    some 0x202 := by decide
/-- T130 -/
theorem test_ldI : seen (fun t => (t.i, t.pc))
    (step { program [0xA1, 0x23] with i := 0xFFFF }) =
    some (0x123, 0x202) := by decide
/-- T33: the sum is not reduced -/
theorem test_jpV0_classic : seen (fun t => t.pc)
    (step (withRegs (program [0xBF, 0xFF]) [(0, 0xFF)])) =
    some 0x10FE := by decide
/-- T34 -/
theorem test_jpV0_extended : seen (fun t => t.pc)
    (step { withRegs (program [0xB3, 0x45]) [(3, 0x10), (0, 0xFF)] with mode := .extended }) =
    some 0x0055 := by decide
/-- R122: PC advances and one draw is used up -/
theorem test_rnd_counts_draws : seen (fun t => (t.pc, t.rndCount))
    (step (program [0xC1, 0x0F])) =
    some (0x202, 1) := by decide
/-- T67: a draw of 0xA7 -/
theorem test_rnd_masks_draw : (State.reset.storeDraw 1 0x0F 0xA7).reg 1 = 0x07 := by decide
/-- T152 -/
theorem test_drw_glyph : seen (fun t => ([0, 8, 16, 24, 32, 1].map t.fb.packedByte, t.reg 15, t.dc))
    (step { program [0xD0, 0x15] with i := 0x50 }) =
    some ([0xF0, 0x90, 0x90, 0x90, 0xF0, 0x00], 0x00, true) := by decide
/-- T156: clipped bits are neither drawn nor collide -/
theorem test_drw_clips : seen (fun t => ([0, 7, 8].map t.fb.packedByte, t.reg 15))
    (step { withRow (withRegs (program [0xD0, 0x11]) [(0, 0x3C)]) 0 (1#64 <<< 63) with i := 0x300, mem := [(0x200, 0xD0), (0x201, 0x11), (0x300, 0xFF)] }) =
    some ([0x80, 0x0F, 0x00], 0x00) := by decide
/-- T180 -/
theorem test_skp : seen (fun t => t.pc)
    (step { withRegs (program [0xE0, 0x9E]) [(0, 0x05)] with keys := 1#16 <<< 5 }) =
    some 0x204 := by decide
/-- T183: key 21 is never held -/
theorem test_skp_not_masked : seen (fun t => t.pc)
    (step { withRegs (program [0xE0, 0x9E]) [(0, 0x15)] with keys := 1#16 <<< 5 }) =
    some 0x202 := by decide
/-- T184 -/
theorem test_sknp : seen (fun t => t.pc)
    (step { withRegs (program [0xE0, 0xA1]) [(0, 0x05)] with keys := 1#16 <<< 5 }) =
    some 0x202 := by decide
/-- T187 -/
theorem test_sknp_not_masked : seen (fun t => t.pc)
    (step { withRegs (program [0xE0, 0xA1]) [(0, 0xFF)] with keys := 0xFFFF }) =
    some 0x204 := by decide
/-- T200 -/
theorem test_ldVxDt : seen (fun t => (t.reg 0, t.dt))
    (step { program [0xF0, 0x07] with dt := 0x2A }) =
    some (0x2A, 0x2A) := by decide
/-- T188: the whole state is unchanged -/
theorem test_ldVxK_waits : seen (fun t => t == withRegs (program [0xF0, 0x0A]) [(0, 0x33)])
    (step (withRegs (program [0xF0, 0x0A]) [(0, 0x33)])) =
    some true := by decide
/-- T189: keys 2, 9 and 11 are held -/
theorem test_ldVxK_lowest : seen (fun t => (t.reg 0, t.pc))
    (step { program [0xF0, 0x0A] with keys := 0b0000101000000100 }) =
    some (0x02, 0x202) := by decide
/-- T201 -/
theorem test_ldDtVx : seen (fun t => (t.dt, t.st))
    (step { withRegs (program [0xF0, 0x15]) [(0, 0x05)] with dt := 0x99 }) =
    some (0x05, 0x00) := by decide
/-- T202 -/
theorem test_ldStVx : seen (fun t => (t.dt, t.st))
    (step (withRegs (program [0xF0, 0x18]) [(0, 0x05)])) =
    some (0x00, 0x05) := by decide
/-- T138: no fault, no flag -/
theorem test_addI_past_memory : seen (fun t => (t.i, t.reg 15, t.fault.isSome))
    (step { withRegs (program [0xF0, 0x1E]) [(0, 0x01)] with i := 0xFFF }) =
    some (0x1000, 0x00, false) := by decide
/-- T141 -/
theorem test_addI_overflow : seen (fun t => (t.i, faultIs t 3 (some 0xF01E) 0x202 (some 0x10000)))
    (step { withRegs (program [0xF0, 0x1E]) [(0, 0x01)] with i := 0xFFFF }) =
    some (0xFFFF, true) := by decide
/-- T133 -/
theorem test_ldF : seen (fun t => t.i)
    (step (withRegs (program [0xF0, 0x29]) [(0, 0x0F)])) =
    some 0x9B := by decide
/-- T136 -/
theorem test_ldF_not_masked : seen (fun t => t.i)
    (step (withRegs (program [0xF0, 0x29]) [(0, 0xFF)])) =
    some 0x54B := by decide
/-- T226: the last three bytes of memory -/
theorem test_ldB : seen (fun t => t.readBytes 0xFFD 3)
    (step { withRegs (program [0xF0, 0x33]) [(0, 0xFF)] with i := 0xFFD }) =
    some [0x02, 0x05, 0x05] := by decide
/-- T227: nothing is stored -/
theorem test_ldB_out_of_bounds : seen (fun t => (t.readBytes 0xFFE 2, faultIs t 3 (some 0xF033) 0x202 (some 0x1000)))
    (step { withRegs (program [0xF0, 0x33]) [(0, 0xFF)] with i := 0xFFE }) =
    some ([0x00, 0x00], true) := by decide
/-- T229 -/
theorem test_storeRegs : seen (fun t => (t.readBytes 0x300 5, t.i))
    (step { withRegs (program [0xF3, 0x55]) [(0, 0x01), (1, 0x02), (2, 0x03), (3, 0x04), (4, 0x05)] with i := 0x300 }) =
    some ([0x01, 0x02, 0x03, 0x04, 0x00], 0x300) := by decide
/-- T234: the font is writable -/
theorem test_storeRegs_font : seen (fun t => t.readBytes 0x50 3)
    (step { withRegs (program [0xF1, 0x55]) [(0, 0x12), (1, 0x0A)] with i := 0x50 }) =
    some [0x12, 0x0A, 0x90] := by decide
/-- T235 -/
theorem test_loadRegs_font : seen (fun t => ([0, 1, 2, 3, 4, 5].map t.reg, t.i))
    (step { program [0xF4, 0x65] with i := 0x50 }) =
    some ([0xF0, 0x90, 0x90, 0x90, 0xF0, 0x00], 0x50) := by decide
/-- T238 -/
theorem test_loadRegs_out_of_bounds : seen (fun t => (t.reg 0, faultIs t 3 (some 0xF165) 0x202 (some 0x1000)))
    (step { program [0xF1, 0x65] with i := 0xFFF }) =
    some (0x00, true) := by decide

/-! ## STEP, faults and events -/

/-- T2, P5b -/
theorem test_empty_program : seen (fun t => (t.pc, faultIs t 1 (some 0x0000) 0x202 none))
    (step State.reset) =
    some (0x202, true) := by decide
/-- T11 -/
theorem test_fetch_last_word : seen (fun t => (t.reg 10, t.pc))
    (step { State.reset.writeBytes 0xFFE [0x6A, 0x42] with pc := 0xFFE }) =
    some (0x42, 0x1000) := by decide
/-- T10 -/
theorem test_fetch_out_of_bounds : seen (fun t => (t.pc, faultIs t 3 none 0xFFF (some 0xFFF)))
    (step { State.reset with pc := 0xFFF }) =
    some (0xFFF, true) := by decide
/-- T13 -/
theorem test_odd_pc : seen (fun t => (t.reg 11, t.pc))
    (step { State.reset.writeBytes 0x201 [0x6B, 0x07] with pc := 0x201 }) =
    some (0x07, 0x203) := by decide
/-- S6: the sixth TICK leaves 0 -/
theorem test_tick_floor : seen (fun t => (t.dt, t.st))
    (runEvents [.tick, .tick, .tick, .tick, .tick, .tick] { State.reset with dt := 5 }) =
    some (0x00, 0x00) := by decide
/-- T196 and T194 -/
theorem test_press_release : seen (fun t => t.keys)
    (runEvents [.press 3, .press 7, .release 3] State.reset) =
    some 0x0080 := by decide
/-- T256 -/
theorem test_ack : seen (fun t => t.dc)
    (runEvents [.ackDisplay] { State.reset with dc := true }) =
    some false := by decide
/-- T14, T210 -/
theorem test_halted_ignores_events : seen (fun t => (t.dt, t.keys, t.dc))
    (runEvents [.step, .tick, .press 3, .ackDisplay] { State.reset with dt := 5, dc := true }) =
    some (0x05, 0x0000, true) := by decide
/-- T255 -/
theorem test_reset_from_halted : seen (fun t => (t.fault.isSome, t.keys, t.dt, t.mode, t.readBytes 0x200 2))
    (runEvents [.step, .reset [0x12, 0x00] .extended] { State.reset with keys := 8, dt := 9 }) =
    some (false, 0x0000, 0x00, .extended, [0x12, 0x00]) := by decide
/-- T254 -/
theorem test_reset_odd_length : seen (fun t => (t.readBytes 0x200 2, t.readBytes 0x50 2))
    (runEvents [.reset [0x6A] .classic] State.reset) =
    some ([0x6A, 0x00], [0xF0, 0x90]) := by decide

/-- The instruction the host places runs as the first after reset (T60 as a table word). -/
theorem test_withFetchWord : seen (fun t => (t.reg 10, t.pc, t.fault.isSome)) (step (State.reset.withFetchWord 16 0x6A42)) =
    some (0x42, 0x202, false) := by decide
/-- The same from a halted state whose PC cannot be fetched from. -/
theorem test_withFetchWord_halted : seen (fun t => (t.reg 10, t.pc))
    (step (State.withFetchWord (State.raiseFetch { State.reset with pc := 0x1000 }) 16 0x6A42)) = some (0x42, 0x202) := by decide

/-! ## Witnesses: the hypotheses of each statement can be met -/

/-- An instruction fetched at 0x200. -/
theorem fetches_of {s : State} {i : Instr} (h₁ : s.fault = none) (h₂ : s.pc.toNat + 2 ≤ 4096)
    (h₃ : s.wordAt s.pc.toNat = encode i) : s.fetches i := ⟨h₁, h₂, h₃⟩

theorem witness_EncodeOfDecode : decode 0x8AB6#16 = .ok (.shr 10 11) := by decide
theorem witness_DecodeFollowsOpcodeMap : decode 0xF065#16 = .ok (.loadRegs 0) ∧ opcodeRow (.drw 0 0 0) ∈ opcodeMap ∧
    0xDFFF#16 &&& (opcodeRow (.drw 0 0 0)).mask = (opcodeRow (.drw 0 0 0)).bits := by decide
/-- At the last address that can be fetched from. -/
theorem witness_StepExecutes : ∃ s : State, s.fault = none ∧ s.pc.toNat + 2 ≤ 4096 ∧
    decode (s.readByte s.pc.toNat ++ s.readByte (s.pc.toNat + 1)) = .ok (.ldImm 10 0x42) :=
  ⟨{ State.reset.writeBytes 0xFFE [0x6A, 0x42] with pc := 0xFFE }, by decide⟩
theorem witness_UnmatchedWord : State.reset.fault = none ∧ State.reset.pc.toNat + 2 ≤ 4096 ∧
    ∀ r ∈ opcodeMap, State.reset.wordAt 0x200 &&& r.mask ≠ r.bits := by decide
theorem witness_UnmatchedWord_only : ∃ t f, State.reset.fault = none ∧ step State.reset = .next t ∧ t.fault = some f ∧ f.kind = .invalidOpcode := ⟨_, _, rfl, rfl, rfl, rfl⟩
theorem witness_CallStackFaults_only : (∃ t r, step (program [0x00, 0xEE]) = .next t ∧ t.fault = some r ∧ r.kind = .stackUnderflow) ∧
    ∃ t r, step { program [0x23, 0x00] with stack := List.replicate 16 0x202 } = .next t ∧ t.fault = some r ∧
      r.kind = .stackOverflow :=
  ⟨⟨_, _, rfl, rfl, rfl⟩, _, _, rfl, rfl, rfl⟩
theorem witness_CallStackFaults_ret : ∃ s : State, s.fetches .ret ∧ s.stack = [] :=
  ⟨program [0x00, 0xEE],
    fetches_of (by decide) (by decide) (by decide), by decide⟩
/-- The stack holds STACK_DEPTH entries. -/
theorem witness_CallStackFaults_call : ∃ s : State, s.fetches (.call 0x300) ∧ s.cfg.stackDepth = some s.stack.length :=
  ⟨{ program [0x23, 0x00] with stack := List.replicate 16 0x202 },
    fetches_of (by decide) (by decide) (by decide), by decide⟩
theorem witness_CallStackFaults_unbounded : ∃ s : State, s.fetches (.call 0x300) ∧ s.cfg.stackDepth = none :=
  ⟨{ program [0x23, 0x00] with cfg := { Config.standard with stackDepth := none } },
    fetches_of (by decide) (by decide) (by decide), by decide⟩
/-- 0xFFF is the first address that cannot be fetched from. -/
theorem witness_OutOfBounds_fetch : ({ State.reset with pc := 0xFFF } : State).fault = none ∧ 4096 < ({ State.reset with pc := 0xFFF } : State).pc.toNat + 2 := by decide
theorem witness_OutOfBounds_drw : ∃ s : State, s.fetches (.drw 0 1 2) ∧ 0 < (2 : Fin 16).val ∧ 4096 < s.i.toNat + (2 : Fin 16).val :=
  ⟨{ program [0xD0, 0x12] with i := 0xFFF },
    fetches_of (by decide) (by decide) (by decide), by decide⟩
theorem witness_OutOfBounds_ldB : ∃ s : State, s.fetches (.ldB 0) ∧ 4096 < s.i.toNat + 3 :=
  ⟨{ program [0xF0, 0x33] with i := 0xFFE },
    fetches_of (by decide) (by decide) (by decide), by decide⟩
theorem witness_OutOfBounds_storeRegs : ∃ s : State, s.fetches (.storeRegs 15) ∧ 4096 < s.i.toNat + (15 : Reg).val + 1 :=
  ⟨{ program [0xFF, 0x55] with i := 0xFF1 },
    fetches_of (by decide) (by decide) (by decide), by decide⟩
theorem witness_OutOfBounds_loadRegs : ∃ s : State, s.fetches (.loadRegs 0) ∧ 4096 < s.i.toNat + (0 : Reg).val + 1 :=
  ⟨{ program [0xF0, 0x65] with i := 0x1000 },
    fetches_of (by decide) (by decide) (by decide), by decide⟩
theorem witness_OutOfBounds_addI : ∃ s : State, s.fetches (.addI 0) ∧ 0xFFFF < s.i.toNat + (s.reg 0).toNat :=
  ⟨{ withRegs (program [0xF0, 0x1E]) [(0, 0x01)] with i := 0xFFFF },
    fetches_of (by decide) (by decide) (by decide), by decide⟩
theorem witness_OutOfBounds_only : ∃ t r, ({ State.reset with pc := 0x1000 } : State).fault = none ∧
    step { State.reset with pc := 0x1000 } = .next t ∧ t.fault = some r ∧ r.kind = .outOfBounds := ⟨_, _, rfl, rfl, rfl, rfl⟩
theorem witness_InstructionFaults : ∃ t r, State.reset.fault = none ∧ exec .ret State.reset = .next t ∧ t.fault = some r := ⟨_, _, rfl, rfl, rfl⟩
theorem witness_Halted_frozen : State.reset.raiseFetch.fault ≠ none ∧ (∀ p m, Event.press 3 ≠ .reset p m) ∧ fire (.press 3) State.reset.raiseFetch = .next State.reset.raiseFetch := ⟨by decide, nofun, rfl⟩
theorem witness_Halted_reset : State.reset.raiseFetch.fault ≠ none ∧ ([] : List Byte).length ≤ 3584 := by decide
/-- The longest PROGRAM. -/
theorem witness_Reset_accepted : (List.replicate 3584 (0 : Byte)).length ≤ 3584 := by rw [List.length_replicate]
/-- The shortest PROGRAM that is refused. -/
theorem witness_Reset_refused : 3584 < (List.replicate 3585 (0 : Byte)).length := by rw [List.length_replicate]; decide
theorem witness_ResetState : State.reset.cfg = Config.standard ∧ State.reset.rndCount = 0 := by decide
theorem witness_Events_running : State.reset.fault = none := by decide
theorem witness_Events_halted : State.reset.raiseFetch.fault ≠ none := by decide
/-- Keys 15 and 16: where the clauses meet. -/
theorem witness_Press_key : 15 ≤ 15 ∧ State.reset.fault = none ∧ 15 < 16 := by decide
theorem witness_EventsWriteOnly : fire .tick State.reset = .next State.reset.tick := rfl
theorem witness_ReturnPopsTheTop : ({ State.reset with stack := [0x202, 0xABE] } : State).stack = [0x202] ++ [0xABE] := by decide
/-- One entry below STACK_DEPTH. -/
theorem witness_Call : ({ State.reset with stack := List.replicate 15 0x202 } : State).cfg.stackDepth ≠
    some ({ State.reset with stack := List.replicate 15 0x202 } : State).stack.length := by decide
theorem witness_JumpWithOffset : State.reset.mode = .classic ∧ ({ State.reset with mode := .extended } : State).mode = .extended := by decide
theorem witness_SkipComparesRegisters : (1 : BitVec 4) ≠ 0 := by decide
/-- `x` is not VF in the result clauses of the flag statements. -/
theorem witness_FlagWriters_x : (14 : Reg) ≠ Reg.vf := by decide
theorem witness_OnlyFlagInstructions : ∃ t, State.reset.fault = none ∧ exec (.drw 0 0 0) State.reset = .next t ∧ t.fault = none := ⟨_, rfl, rfl, rfl⟩
theorem witness_VfUnchanged : ∃ t, exec (.ldImm 14 1) State.reset = .next t ∧ destReg (.ldImm 14 1) Reg.vf = false := ⟨_, rfl, rfl⟩
/-- The sum is 0xFFFF (T139). -/
theorem witness_AddToIndex : ({ withRegs State.reset [(0, 0xFF)] with i := 0xFF00 } : State).i.toNat +
    (({ withRegs State.reset [(0, 0xFF)] with i := 0xFF00 } : State).reg 0).toNat ≤ 0xFFFF := by decide
/-- No row: any `I` (T162). -/
theorem witness_Draw_empty : (0 : Fin 16).val = 0 ∨ ({ State.reset with i := 0xFFFF } : State).i.toNat + (0 : Fin 16).val ≤ 4096 := by decide
/-- The last byte of memory (T165). -/
theorem witness_Draw_last_byte : (1 : Fin 16).val = 0 ∨ ({ State.reset with i := 0xFFF } : State).i.toNat + (1 : Fin 16).val ≤ 4096 := by decide
/-- One byte further (T166). -/
theorem witness_Draw_out_of_bounds : 0 < (2 : Fin 16).val ∧ 4096 < ({ State.reset with i := 0xFFF } : State).i.toNat + (2 : Fin 16).val := by decide
/-- A lit pixel under the glyph 0. -/
theorem witness_Draw_hits : spriteHits ({ withRow (program [0xD0, 0x15]) 0 (1#64 <<< 63) with i := 0x50 }) 0 1 5 := ⟨0, by decide, 0, by decide, by decide, by decide⟩
theorem witness_Draw_misses : ¬ spriteHits State.reset 0 1 0 := by
  rintro ⟨row, _, col, _, h, _⟩
  simp [State.reset, FrameBuffer.pixel] at h
theorem witness_DrawingTwice : ∃ t, (0 : Reg) ≠ Reg.vf ∧ (1 : Reg) ≠ Reg.vf ∧ ((5 : Fin 16).val = 0 ∨ ({ State.reset with i := 0x50 } : State).i.toNat + 5 ≤ 4096) ∧
    exec (.drw 0 1 5) { State.reset with i := 0x50 } = .next t := ⟨_, by decide, by decide, by decide, rfl⟩
theorem witness_KeyWait_polls : ∃ s : State, s.fetches (.ldVxK 0) ∧ s.keys = 0 :=
  ⟨program [0xF0, 0x0A],
    fetches_of (by decide) (by decide) (by decide), by decide⟩
/-- Key 15 alone is held (T191). -/
theorem witness_KeyWait_lowest : 15 < 16 ∧ ({ State.reset with keys := 0x8000 } : State).keys.getLsbD 15 = true ∧
    ∀ j < 15, ({ State.reset with keys := 0x8000 } : State).keys.getLsbD j = false := by decide
theorem witness_Bcd_last : ({ State.reset with i := 0xFFD } : State).i.toNat + 3 ≤ 4096 := by decide
theorem witness_Bcd_out_of_bounds : 4093 < ({ State.reset with i := 0xFFE } : State).i.toNat := by decide
/-- All sixteen registers at the top of memory (T231). -/
theorem witness_StoreLoad_top : ({ State.reset with i := 0xFF0 } : State).i.toNat + (15 : Reg).val ≤ 4095 := by decide
/-- The bytes of P6. -/
theorem witness_StoreIsSeen : ∃ s : State, s.fault = none ∧ s.i.toNat + (1 : Reg).val ≤ 4095 ∧ (1 : Reg).val = (0 : Reg).val + 1 ∧
    (1 : Reg) ≤ 1 ∧ s.pc.toNat = s.i.toNat + (0 : Reg).val ∧ decode (s.reg 0 ++ s.reg 1) = .ok (.ldImm 2 0x33) :=
  ⟨{ withRegs (State.reset) [(0, 0x62), (1, 0x33)] with i := 0x208, pc := 0x208 }, by decide⟩
theorem witness_Frame_elements : ∃ t, exec (.storeRegs 3) State.reset = .next t := ⟨_, rfl⟩
theorem witness_Frame_registers : ∃ t, exec (.addReg 1 2) State.reset = .next t ∧ destReg (.addReg 1 2) 2 = false := ⟨_, rfl, rfl⟩
/-- Bytes 0 to 3 are stored, byte 4 is not. -/
theorem witness_Frame_bytes : ∃ t, exec (.storeRegs 3) State.reset = .next t ∧ ¬ storesTo (.storeRegs 3) State.reset 4 := ⟨_, rfl, by unfold storesTo; decide⟩
theorem witness_Invariant : Invariant State.reset ∧ ∃ t, step State.reset = .next t ∧ runEvents [.step] State.reset = .next t := by
  refine ⟨⟨⟨List.Pairwise.nil, nofun⟩, fun d h => ?_, by decide, nofun, nofun⟩, _, rfl, rfl⟩
  exact Nat.zero_le d
theorem witness_EqualBytes : Memory.wf (resetByte Config.defaultFont) [(0x200, 1), (0x201, 2)] ∧
    ∀ a, Memory.read (resetByte Config.defaultFont) [(0x200, 1), (0x201, 2)] a =
      Memory.read (resetByte Config.defaultFont) [(0x200, 1), (0x201, 2)] a := ⟨by decide, fun _ => rfl⟩
/-- 1200 at 0x200 (T21). -/
theorem witness_Idle : (program [0x12, 0x00]).idle := ⟨by decide, by decide, by decide⟩
theorem witness_Mode : (∀ nnn, Instr.cls ≠ .jpV0 nnn) ∧ ∃ t, exec .cls State.reset = .next t := ⟨nofun, _, rfl⟩
theorem witness_HostOutputs : ∃ t, exec (.ldStVx 0) State.reset = .next t := ⟨_, rfl⟩

end Sys2Proof.Tests
end

/-! SUPPORT. Frames: how `UnchangedBut` composes, what each operation on the state leaves unchanged, and the frame of every
instruction. -/

namespace Sys2Proof.Machine

section Frames

variable {L L' : List Element} {s t u : State}

/-- A frame, element by element. -/
theorem unchangedBut_iff : UnchangedBut L s t ↔
    (.cfg ∉ L → t.cfg = s.cfg) ∧ (.mem ∉ L → ∀ a, t.readByte a = s.readByte a) ∧ (.regs ∉ L → ∀ r, t.reg r = s.reg r) ∧
    (.index ∉ L → t.i = s.i) ∧ (.pc ∉ L → t.pc = s.pc) ∧ (.stack ∉ L → t.stack = s.stack) ∧ (.fb ∉ L → t.fb = s.fb) ∧
    (.dt ∉ L → t.dt = s.dt) ∧ (.st ∉ L → t.st = s.st) ∧ (.keys ∉ L → t.keys = s.keys) ∧ (.mode ∉ L → t.mode = s.mode) ∧
    (.dc ∉ L → t.dc = s.dc) ∧ (.fault ∉ L → t.fault = s.fault) ∧ (.draws ∉ L → t.rndCount = s.rndCount) := by
  constructor
  · exact fun h => ⟨h .cfg, h .mem, h .regs, h .index, h .pc, h .stack, h .fb, h .dt, h .st, h .keys, h .mode, h .dc,
      h .fault, h .draws⟩
  · rintro ⟨hcfg, hmem, hregs, hindex, hpc, hstack, hfb, hdt, hst, hkeys, hmode, hdc, hfault, hdraws⟩ e
    cases e <;> assumption

theorem UnchangedBut.refl : UnchangedBut L s s := by simp [unchangedBut_iff]

/-- A longer list of elements claims less. -/
theorem UnchangedBut.mono (h : UnchangedBut L s t) (hL : L ⊆ L') : UnchangedBut L' s t :=
  fun e he => h e fun hm => he (hL hm)

theorem SameElement.trans {e : Element} (h₁ : SameElement e s t) (h₂ : SameElement e t u) : SameElement e s u := by
  cases e
  case mem => exact fun a => (h₂ a).trans (h₁ a)
  case regs => exact fun r => (h₂ r).trans (h₁ r)
  all_goals exact Eq.trans h₂ h₁

/-- Two updates one after the other change at most what either changes. -/
theorem UnchangedBut.trans (h₁ : UnchangedBut L s t) (h₂ : UnchangedBut L' t u) : UnchangedBut (L ++ L') s u :=
  fun e he => (h₁ e fun hm => he (by simp [hm])).trans (h₂ e fun hm => he (by simp [hm]))

/-- Bytes are read out of the memory over the image of FONT, and out of no other element. -/
theorem State.readByte_eq (s : State) (a : Nat) : s.readByte a = s.mem.read (resetByte s.cfg.font) a := rfl

/-! ## The frame of each operation -/

variable {r x : Reg} {b c : Byte} {f : Bool} {w : Word} {a n : Nat} {bs : List Byte} {i : Instr} {k : FaultKind}

theorem unchangedBut_setReg : UnchangedBut [.regs] s (s.setReg r b) := by simp [unchangedBut_iff]

theorem unchangedBut_setResultFlag : UnchangedBut [.regs] s (s.setResultFlag x b f) := by simp [unchangedBut_iff]

theorem unchangedBut_loadRegsFrom : UnchangedBut [.regs] s (s.loadRegsFrom a x) := by simp [unchangedBut_iff]

theorem unchangedBut_writeBytes : UnchangedBut [.mem] s (s.writeBytes a bs) := by simp [unchangedBut_iff]

theorem unchangedBut_skipIf : UnchangedBut [.pc] s (s.skipIf f) := by simp [unchangedBut_iff]

theorem unchangedBut_jump : UnchangedBut [.pc] s (s.jump w) := by simp [unchangedBut_iff]

theorem unchangedBut_advance : UnchangedBut [.pc] s s.advance := by simp [unchangedBut_iff]

theorem unchangedBut_push : UnchangedBut [.stack] s (s.push w) := by simp [unchangedBut_iff]

theorem unchangedBut_setIndex : UnchangedBut [.index] s (s.setIndex w) := by simp [unchangedBut_iff]

theorem unchangedBut_present {fb : FrameBuffer} : UnchangedBut [.fb, .dc] s (s.present fb) := by simp [unchangedBut_iff]

theorem unchangedBut_raise {o : Option Word} {p : Option Nat} : UnchangedBut [.fault] s (s.raise k o p) := by
  simp [unchangedBut_iff]

theorem unchangedBut_raiseIn {p : Option Nat} : UnchangedBut [.fault] s (s.raiseIn i k p) := unchangedBut_raise

theorem unchangedBut_raiseRange : UnchangedBut [.fault] s (s.raiseRange i a) := unchangedBut_raise

theorem unchangedBut_stack {st : List Word} : UnchangedBut [.stack] s { s with stack := st } := by
  simp [unchangedBut_iff, State.readByte_eq, State.reg]

theorem unchangedBut_timers : UnchangedBut [.dt, .st] s { s with dt := b, st := c } := by
  simp [unchangedBut_iff, State.readByte_eq, State.reg]

theorem unchangedBut_dt : UnchangedBut [.dt] s { s with dt := b } := by
  simp [unchangedBut_iff, State.readByte_eq, State.reg]

theorem unchangedBut_st : UnchangedBut [.st] s { s with st := b } := by
  simp [unchangedBut_iff, State.readByte_eq, State.reg]

theorem unchangedBut_keys {ks : BitVec 16} : UnchangedBut [.keys] s { s with keys := ks } := by
  simp [unchangedBut_iff, State.readByte_eq, State.reg]

theorem unchangedBut_dc : UnchangedBut [.dc] s { s with dc := f } := by
  simp [unchangedBut_iff, State.readByte_eq, State.reg]

theorem unchangedBut_rndCount : UnchangedBut [.draws] s { s with rndCount := n } := by
  simp [unchangedBut_iff, State.readByte_eq, State.reg]

end Frames

/-! ## The frame of each instruction -/

/-- The elements an instruction may write, from the frames of the operations it is made of. -/
theorem exec_unchangedBut {i : Instr} {s t : State} (h : exec i s = .next t) : UnchangedBut (instrWrites i) s t := by
  cases i with
  | cls => cases h; exact unchangedBut_present
  | ret =>
    rcases execRet_cases s with ⟨-, he⟩ | ⟨st, w, -, he⟩
    · cases he.symm.trans h; exact unchangedBut_raiseIn.mono (by simp [instrWrites])
    · cases he.symm.trans h; exact (unchangedBut_stack.trans unchangedBut_jump).mono (by simp [instrWrites])
  | call nnn =>
    rcases execCall_cases s nnn with ⟨-, he⟩ | ⟨-, he⟩
    · cases he.symm.trans h; exact unchangedBut_raiseIn.mono (by simp [instrWrites])
    · cases he.symm.trans h; exact (unchangedBut_push.trans unchangedBut_jump).mono (by simp [instrWrites])
  | jp nnn | jpV0 nnn => cases h; exact unchangedBut_jump
  | seImm x nn | sneImm x nn | seReg x y | sneReg x y | skp x | sknp x => cases h; exact unchangedBut_skipIf
  | ldImm x nn | addImm x nn | ldReg x y | orReg x y | andReg x y | xorReg x y | ldVxDt x =>
    cases h; exact unchangedBut_setReg
  | addReg x y | subReg x y | shr x y | subnReg x y | shl x y => cases h; exact unchangedBut_setResultFlag
  | ldI nnn | ldF x => cases h; exact unchangedBut_setIndex
  | rnd x nn =>
    cases h
    exact UnchangedBut.trans (t := s.storeDraw x nn (Config.drawRnd s.rndCount)) unchangedBut_setReg unchangedBut_rndCount
  | drw x y n =>
    rcases execDrw_cases s x y n with ⟨-, he⟩ | ⟨-, drawn, -, he⟩
    · cases he.symm.trans h; exact unchangedBut_raiseRange.mono (by simp [instrWrites])
    · cases he.symm.trans h; exact (unchangedBut_setReg.trans unchangedBut_present).mono (by simp [instrWrites])
  | ldVxK x =>
    rcases execLdVxK_cases s x with ⟨-, he⟩ | ⟨k, -, he⟩
    · cases he.symm.trans h; exact unchangedBut_jump.mono (by simp [instrWrites])
    · cases he.symm.trans h; exact unchangedBut_setReg.mono (by simp [instrWrites])
  | ldDtVx x => cases h; exact unchangedBut_dt
  | ldStVx x => cases h; exact unchangedBut_st
  | addI x =>
    rcases execAddI_cases s x with ⟨-, he⟩ | ⟨-, he⟩
    · cases he.symm.trans h; exact unchangedBut_raiseIn.mono (by simp [instrWrites])
    · cases he.symm.trans h; exact unchangedBut_setIndex.mono (by simp [instrWrites])
  | ldB x =>
    rcases execLdB_cases s x with ⟨-, he⟩ | ⟨-, he⟩
    · cases he.symm.trans h; exact unchangedBut_raiseRange.mono (by simp [instrWrites])
    · cases he.symm.trans h; exact unchangedBut_writeBytes.mono (by simp [instrWrites])
  | storeRegs x =>
    rcases execStoreRegs_cases s x with ⟨-, he⟩ | ⟨-, he⟩
    · cases he.symm.trans h; exact unchangedBut_raiseRange.mono (by simp [instrWrites])
    · cases he.symm.trans h; exact unchangedBut_writeBytes.mono (by simp [instrWrites])
  | loadRegs x =>
    rcases execLoadRegs_cases s x with ⟨-, he⟩ | ⟨-, he⟩
    · cases he.symm.trans h; exact unchangedBut_raiseRange.mono (by simp [instrWrites])
    · cases he.symm.trans h; exact unchangedBut_loadRegsFrom.mono (by simp [instrWrites])

/-- Settles O49: an instruction is made of operations, each with its frame. -/
theorem instructionsWriteOnlyTheirElements : Obligations.InstructionsWriteOnlyTheirElements :=
  fun _ _ _ h => exec_unchangedBut h

end Sys2Proof.Machine

/-! SUPPORT. Which registers and which bytes of memory an instruction changes, from its frame and the operations it is made of. -/

namespace Sys2Proof.Machine

section Registers

variable {s : State} {r x : Reg} {b : Byte} {f : Bool}

theorem State.reg_setReg_of_ne (h : (r == x) = false) : (s.setReg x b).reg r = s.reg r := by
  rw [State.reg_setReg, if_neg (by simpa using h)]

theorem State.reg_setResultFlag_of_ne (h : (r == x || r == Reg.vf) = false) :
    (s.setResultFlag x b f).reg r = s.reg r := by
  obtain ⟨hx, hvf⟩ := Bool.or_eq_false_iff.mp h
  rw [State.setResultFlag, State.reg_setReg_of_ne hvf, State.reg_setReg_of_ne hx]

theorem State.reg_loadRegsFrom_of_lt {base : Nat} (h : decide (r ≤ x) = false) :
    (s.loadRegsFrom base x).reg r = s.reg r := by
  rw [State.reg_loadRegsFrom, if_neg (by simpa using h)]

end Registers

/-- Settles O50: an instruction that may write registers writes them with `setReg`, `setResultFlag` or `loadRegsFrom`, at its
destinations; any other leaves them by its frame. -/
theorem instructionsWriteOnlyTheirRegisters : Obligations.InstructionsWriteOnlyTheirRegisters := by
  intro i s t r h hr
  by_cases hw : Element.regs ∈ instrWrites i
  · cases i with
    | ldImm x nn | addImm x nn | ldReg x y | orReg x y | andReg x y | xorReg x y | ldVxDt x =>
      cases h; exact State.reg_setReg_of_ne hr
    | addReg x y | subReg x y | shr x y | subnReg x y | shl x y => cases h; exact State.reg_setResultFlag_of_ne hr
    | rnd x nn => cases h; exact State.reg_setReg_of_ne (s := s) hr
    | drw x y n =>
      rcases execDrw_cases s x y n with ⟨-, he⟩ | ⟨-, drawn, -, he⟩
      · cases he.symm.trans h; rfl
      · cases he.symm.trans h; exact State.reg_setReg_of_ne hr
    | ldVxK x =>
      rcases execLdVxK_cases s x with ⟨-, he⟩ | ⟨k, -, he⟩
      · cases he.symm.trans h; rfl
      · cases he.symm.trans h; exact State.reg_setReg_of_ne hr
    | loadRegs x =>
      rcases execLoadRegs_cases s x with ⟨-, he⟩ | ⟨-, he⟩
      · cases he.symm.trans h; rfl
      · cases he.symm.trans h; exact State.reg_loadRegsFrom_of_lt hr
    | _ => simp [instrWrites] at hw
  · exact exec_unchangedBut h .regs hw r

/-- The bytes outside `[s.i, s.i + n)` are those a store of `n` bytes at `I` leaves alone. -/
theorem State.readByte_writeBytes_of_not_storesTo {s : State} {i : Instr} {bs : List Byte} {a : Nat}
    (hlen : bs.length = storeLength i) (h : ¬ storesTo i s a) :
    (s.writeBytes s.i.toNat bs).readByte a = s.readByte a := by
  refine s.readByte_writeBytes_outside ?_
  unfold storesTo at h
  omega

/-- Settles O51: Fx33 and Fx55 store from `I` on; any other instruction leaves memory by its frame. -/
theorem instructionsWriteOnlyTheirBytes : Obligations.InstructionsWriteOnlyTheirBytes := by
  intro i s t a h ha
  by_cases hw : Element.mem ∈ instrWrites i
  · cases i with
    | ldB x =>
      rcases execLdB_cases s x with ⟨-, he⟩ | ⟨-, he⟩
      · cases he.symm.trans h; rfl
      · cases he.symm.trans h; exact State.readByte_writeBytes_of_not_storesTo rfl ha
    | storeRegs x =>
      rcases execStoreRegs_cases s x with ⟨-, he⟩ | ⟨-, he⟩
      · cases he.symm.trans h; rfl
      · cases he.symm.trans h; exact State.readByte_writeBytes_of_not_storesTo (i := .storeRegs x) (s.regsUpTo_length x) ha
    | _ => simp [instrWrites] at hw
  · exact exec_unchangedBut h .mem hw a

end Sys2Proof.Machine

/-! SUPPORT. The events other than STEP, and memory after RESET. -/

namespace Sys2Proof.Machine

variable {s : State} {k : Nat} {p : List Byte} {m : Mode}

/-! ## What the events do -/

theorem State.tick_of_running (h : s.fault = none) : s.tick = { s with dt := countDown s.dt, st := countDown s.st } := by
  simp [State.tick, s.not_halted h]

theorem State.press_of_running (h : s.fault = none) : s.press k = { s with keys := s.keys ||| (1#16 <<< k) } := by
  simp [State.press, s.not_halted h]

theorem State.release_of_running (h : s.fault = none) : s.release k = { s with keys := s.keys &&& ~~~(1#16 <<< k) } := by
  simp [State.release, s.not_halted h]

theorem State.ackDisplay_of_running (h : s.fault = none) : s.ackDisplay = { s with dc := false } := by
  simp [State.ackDisplay, s.not_halted h]

theorem State.tick_of_halted (h : s.fault ≠ none) : s.tick = s := by simp [State.tick, s.halted_iff.mpr h]

theorem State.press_of_halted (h : s.fault ≠ none) : s.press k = s := by simp [State.press, s.halted_iff.mpr h]

theorem State.release_of_halted (h : s.fault ≠ none) : s.release k = s := by simp [State.release, s.halted_iff.mpr h]

theorem State.ackDisplay_of_halted (h : s.fault ≠ none) : s.ackDisplay = s := by
  simp [State.ackDisplay, s.halted_iff.mpr h]

theorem fire_press (h : k < 16) : fire (.press k) s = .next (s.press k) := if_pos (keyWellFormed_iff.mpr h)

theorem fire_release (h : k < 16) : fire (.release k) s = .next (s.release k) := if_pos (keyWellFormed_iff.mpr h)

theorem fire_press_refused (h : ¬ k < 16) : fire (.press k) s = .refused (.keyOutOfRange k) :=
  if_neg (mt keyWellFormed_iff.mp h)

theorem fire_release_refused (h : ¬ k < 16) : fire (.release k) s = .refused (.keyOutOfRange k) :=
  if_neg (mt keyWellFormed_iff.mp h)

theorem fire_reset (h : p.length ≤ 3584) : fire (.reset p m) s = .next (s.restart p m) :=
  if_pos (programWellFormed_iff.mpr h)

theorem fire_reset_refused (h : ¬ p.length ≤ 3584) : fire (.reset p m) s = .refused (.programTooLong p.length) :=
  if_neg (mt programWellFormed_iff.mp h)

/-! ## Their frames -/

theorem unchangedBut_tick : UnchangedBut [.dt, .st] s s.tick := by
  by_cases h : s.fault = none
  · rw [State.tick_of_running h]; exact unchangedBut_timers
  · rw [State.tick_of_halted h]; exact .refl

theorem unchangedBut_press : UnchangedBut [.keys] s (s.press k) := by
  by_cases h : s.fault = none
  · rw [State.press_of_running h]; exact unchangedBut_keys
  · rw [State.press_of_halted h]; exact .refl

theorem unchangedBut_release : UnchangedBut [.keys] s (s.release k) := by
  by_cases h : s.fault = none
  · rw [State.release_of_running h]; exact unchangedBut_keys
  · rw [State.release_of_halted h]; exact .refl

theorem unchangedBut_ackDisplay : UnchangedBut [.dc] s s.ackDisplay := by
  by_cases h : s.fault = none
  · rw [State.ackDisplay_of_running h]; exact unchangedBut_dc
  · rw [State.ackDisplay_of_halted h]; exact .refl

theorem unchangedBut_restart : UnchangedBut (eventWrites (.reset p m)) s (s.restart p m) := by
  simp [unchangedBut_iff, eventWrites, State.restart]

/-- Whatever an instruction may write, STEP may. -/
theorem instrWrites_subset_step (i : Instr) : instrWrites i ⊆ eventWrites .step := by
  cases i <;> simp [instrWrites, eventWrites]

theorem step_unchangedBut {t : State} (h : step s = .next t) : UnchangedBut (eventWrites .step) s t := by
  rcases step_cases s with ⟨-, hs⟩ | ⟨-, -, hs⟩ | ⟨-, -, -, hs⟩ | ⟨i, -, -, -, hs⟩
  · cases hs.symm.trans h; exact .refl
  · cases hs.symm.trans h; exact unchangedBut_raise.mono (by simp [eventWrites])
  · cases hs.symm.trans h; exact (unchangedBut_advance.trans unchangedBut_raise).mono (by simp [eventWrites])
  · have hexec := exec_unchangedBut (hs.symm.trans h)
    exact (unchangedBut_advance.trans hexec).mono
      (List.append_subset.mpr ⟨by simp [eventWrites], instrWrites_subset_step i⟩)

/-- Settles O19: each event by its own frame; a refused event has no next state. -/
theorem eventsWriteOnlyWhatTheTableLists : Obligations.EventsWriteOnlyWhatTheTableLists := by
  intro e s t h
  cases e with
  | step => exact step_unchangedBut h
  | tick => cases h; exact unchangedBut_tick
  | press k =>
    by_cases hk : k < 16
    · cases (fire_press hk).symm.trans h; exact unchangedBut_press
    · cases (fire_press_refused hk).symm.trans h
  | release k =>
    by_cases hk : k < 16
    · cases (fire_release hk).symm.trans h; exact unchangedBut_release
    · cases (fire_release_refused hk).symm.trans h
  | ackDisplay => cases h; exact unchangedBut_ackDisplay
  | reset p m =>
    by_cases hp : p.length ≤ 3584
    · cases (fire_reset hp).symm.trans h; exact unchangedBut_restart
    · cases (fire_reset_refused hp).symm.trans h

/-! ## Timers -/

theorem countDown_toNat (b : Byte) : (countDown b).toNat = b.toNat - 1 := by
  unfold countDown
  split_ifs with h
  · simp [h]
  · have : b.toNat ≠ 0 := fun hb => h (BitVec.eq_of_toNat_eq hb)
    bv_omega

/-- Settles O16, by induction on the number of TICKs. -/
theorem timersReachZeroAfterTheirValueInTicks : Obligations.TimersReachZeroAfterTheirValueInTicks := by
  intro s k hs
  induction k generalizing s with
  | zero => exact ⟨s, rfl, rfl, rfl, .refl⟩
  | succ k ih =>
    have htick := State.tick_of_running hs
    obtain ⟨t, hrun, hdt, hst, hframe⟩ := ih s.tick (by rw [htick]; exact hs)
    refine ⟨t, hrun, ?_, ?_, (unchangedBut_tick.trans hframe).mono (by simp)⟩
    · rw [hdt, htick, countDown_toNat]; omega
    · rw [hst, htick, countDown_toNat]; omega

/-! ## Keys -/

/-- The bit of key `k` alone. -/
theorem getLsbD_keyBit {j : Nat} (hj : j < 16) : (1#16 <<< k).getLsbD j = decide (j = k) := by
  rw [← BitVec.twoPow_eq, BitVec.getLsbD_twoPow]
  by_cases h : j = k
  · subst h; simp [hj]
  · simp [h, Ne.symm h]

/-- Settles O17. -/
theorem pressAndReleaseChangeOneKey : Obligations.PressAndReleaseChangeOneKey := by
  refine ⟨fun s k hk hs => ⟨_, fire_press (by omega), fun j hj => ?_, unchangedBut_press⟩,
    fun s k hk hs => ⟨_, fire_release (by omega), fun j hj => ?_, unchangedBut_release⟩,
    fun s k hk hs => ⟨?_, ?_⟩,
    fun s k hk => ⟨fire_press_refused (by omega), fire_release_refused (by omega)⟩⟩
  · rw [State.press_of_running hs, BitVec.getLsbD_or, getLsbD_keyBit hj]
  · rw [State.release_of_running hs, BitVec.getLsbD_and, BitVec.getLsbD_not, getLsbD_keyBit hj]
    simp [hj]
  · rw [fire_press (by omega), State.press_of_halted hs]
  · rw [fire_release (by omega), State.release_of_halted hs]

/-! ## RESET -/

/-- A byte read after a store: the byte stored there, or the byte before. -/
theorem State.readByte_writeBytes (s : State) (base : Nat) (bs : List Byte) (a : Nat) :
    (s.writeBytes base bs).readByte a =
      if base ≤ a ∧ a < base + bs.length then bs.getD (a - base) 0 else s.readByte a := by
  split_ifs with h
  · obtain ⟨j, rfl⟩ := Nat.exists_eq_add_of_le h.1
    have hj : j < bs.length := by omega
    rw [s.readByte_writeBytes_inside hj, Nat.add_sub_cancel_left, List.getD_eq_getElem _ _ hj]
  · exact s.readByte_writeBytes_outside (by omega)

/-- The reset image: the 80 bytes of FONT from 0x050 on, zero elsewhere (R25, R26). -/
theorem resetByte_eq (font : Font) (a : Nat) :
    resetByte font a = if 0x050 ≤ a ∧ a < 0x0A0 then font.toList.getD (a - 0x050) 0 else 0 := by
  rw [resetByte, show Config.fontBase = 0x050 from rfl]
  by_cases hlow : a < 0x050
  · rw [if_pos hlow, if_neg (by omega)]
  · rw [if_neg hlow]
    split_ifs with hfont
    · rfl
    · exact List.getD_eq_default _ _ (by rw [Vector.length_toList]; omega)

/-- All that RESET takes over from the state before it is the parameters and the draw counter. -/
theorem State.restart_eq : s.restart p m =
    { State.reset with cfg := s.cfg, mem := (s.restart p m).mem, mode := m, rndCount := s.rndCount } :=
  State.writeBytes_eq ..

theorem State.reset_reg (r : Reg) : State.reset.reg r = 0 := Vector.getElem_replicate ..

/-- Settles O13: the store of PROGRAM over the reset image; RESET writes every other element before it. -/
theorem resetConstructsTheState : Obligations.ResetConstructsTheState := by
  refine ⟨fun s p m hp => ⟨s.restart p m, fire_reset hp, fun a _ => ?_, ?_⟩, fun s p m hp => fire_reset_refused (by omega)⟩
  · rw [State.restart, State.readByte_writeBytes]
    congr 1
    exact resetByte_eq s.cfg.font a
  · rw [State.restart_eq]
    exact ⟨rfl, rfl, State.reset_reg, rfl, rfl, fun row _ col _ => FrameBuffer.blank_pixel row col, rfl, rfl, rfl, rfl,
      rfl, rfl⟩

end Sys2Proof.Machine

/-! SUPPORT. The display: which pixels a sprite turns over, when it collides, and the packing the host reads. -/

namespace Sys2Proof.Machine

/-- Settles O38. -/
theorem clearTurnsEveryPixelOff : Obligations.ClearTurnsEveryPixelOff := by
  refine ⟨by decide, fun s => ⟨_, rfl, fun row _ col _ => FrameBuffer.blank_pixel row col, rfl, unchangedBut_present⟩⟩

/-! ## Sprites -/

section Sprites

variable {row col : Nat}

/-- A sprite row of no bit falls on no column. -/
theorem spriteMask_zero_getMsbD (x0 : Nat) (hc : col < 64) : (spriteMask 0 x0).getMsbD col = false := by
  simp [spriteMask_getMsbD _ _ _ hc]

/-- The bytes from `base` on, one by one; none past the `n`-th. -/
theorem State.getD_readBytes (s : State) (base n k : Nat) :
    (s.readBytes base n).getD k 0 = if k < n then s.readByte (base + k) else 0 := by
  split_ifs with h <;> simp [State.readBytes, h]

/-- The sprite bit on a screen position, out of the row of the sprite that `drawSprite` draws there. -/
theorem spriteBit_eq (s : State) (x y : Reg) (n : Fin 16) (row : Nat) (hc : col < 64) :
    spriteBit s x y n row col = (decide (spriteTop (s.reg y) ≤ row) &&
      (spriteMask ((s.readBytes s.i.toNat n.val).getD (row - spriteTop (s.reg y)) 0)
        (spriteColumn (s.reg x))).getMsbD col) := by
  rw [State.getD_readBytes, spriteBit, spriteTop, spriteColumn]
  by_cases htop : (s.reg y).toNat % 32 ≤ row
  · by_cases hbottom : row < (s.reg y).toNat % 32 + n.val
    · rw [if_pos (by omega), spriteMask_getMsbD _ _ _ hc]
      simp [htop, hbottom]
    · rw [if_neg (by omega), spriteMask_zero_getMsbD _ hc]
      simp [hbottom]
  · simp [htop]

/-- A sprite collides when one of its bits falls on a lit pixel: rows are drawn one below the other, so that none meets what
another has drawn (R162, R163). -/
theorem drawSprite_collides (x0 : Nat) (fb : FrameBuffer) (y0 : Nat) (bs : List Byte) :
    (drawSprite x0 fb y0 bs).2 = true ↔ ∃ row < 32, ∃ col < 64, fb.pixel row col = true ∧
      (decide (y0 ≤ row) && (spriteMask (bs.getD (row - y0) 0) x0).getMsbD col) = true := by
  induction bs generalizing fb y0 with
  | nil =>
    refine iff_of_false (by simp [drawSprite]) ?_
    rintro ⟨row, _, col, hc, _, hbit⟩
    rw [List.getD_nil, spriteMask_zero_getMsbD x0 hc, Bool.and_false] at hbit
    exact Bool.false_ne_true hbit
  | cons b bs ih =>
    rw [drawSprite]
    simp only [Bool.or_eq_true, drawRow_collides, ih, Bool.and_eq_true, decide_eq_true_eq]
    constructor
    · rintro (⟨hy, col, hc, hlit, hbit⟩ | ⟨row, hr, col, hc, hlit, hrow, hbit⟩)
      · exact ⟨y0, hy, col, hc, hlit, Nat.le_refl y0, by simpa using hbit⟩
      · rw [drawRow_pixel _ _ _ _ _ hr, decide_eq_false (by omega), Bool.false_and, Bool.xor_false] at hlit
        refine ⟨row, hr, col, hc, hlit, by omega, ?_⟩
        rwa [show row - y0 = row - (y0 + 1) + 1 by omega, List.getD_cons_succ]
    · rintro ⟨row, hr, col, hc, hlit, hrow, hbit⟩
      rcases Nat.eq_or_lt_of_le hrow with rfl | hlt
      · exact .inl ⟨hr, col, hc, hlit, by simpa using hbit⟩
      · rw [show row - y0 = row - (y0 + 1) + 1 by omega, List.getD_cons_succ] at hbit
        refine .inr ⟨row, hr, col, hc, ?_, hlt, hbit⟩
        rwa [drawRow_pixel _ _ _ _ _ hr, decide_eq_false (by omega), Bool.false_and, Bool.xor_false]

end Sprites

/-- The collision flag of `Dxyn` says whether the sprite turns a lit pixel off. -/
theorem drawSprite_collides_iff_spriteHits (s : State) (x y : Reg) (n : Fin 16) :
    (drawSprite (spriteColumn (s.reg x)) s.fb (spriteTop (s.reg y)) (s.readBytes s.i.toNat n.val)).2 = true ↔
      spriteHits s x y n := by
  rw [drawSprite_collides, spriteHits]
  refine exists_congr fun row => and_congr_right fun _ => exists_congr fun col => and_congr_right fun hc => ?_
  rw [spriteBit_eq s x y n row hc]

/-- Settles O39: the two outcomes of Dxyn, the sprite drawn pixel by pixel or the fault. -/
theorem drawXorsTheClippedSprite : Obligations.DrawXorsTheClippedSprite := by
  refine ⟨fun x y n => ?_, fun s x y n hn => ?_, fun s x y n hpos hout => ?_⟩
  · simp [decode_opD]
  · rcases execDrw_cases s x y n with ⟨hout, -⟩ | ⟨-, drawn, rfl, he⟩
    · omega
    · refine ⟨_, he, fun row hr col hc => ?_, fun hhits => ?_, fun hmiss => ?_, rfl, fun r hr => ?_,
        unchangedBut_setReg.trans unchangedBut_present⟩
      · rw [State.present_fb, drawSprite_pixel _ _ _ _ _ _ hr hc, spriteBit_eq s x y n row hc]
      · rw [State.present_reg, State.reg_setReg, if_pos rfl, (drawSprite_collides_iff_spriteHits s x y n).mpr hhits]; rfl
      · rw [State.present_reg, State.reg_setReg, if_pos rfl,
          Bool.eq_false_iff.mpr (mt (drawSprite_collides_iff_spriteHits s x y n).mp hmiss)]; rfl
      · rw [State.present_reg, State.reg_setReg, if_neg hr]
  · rcases execDrw_cases s x y n with ⟨-, he⟩ | ⟨hin, -⟩
    · exact he
    · omega

/-! ## The packed framebuffer (R30) -/

/-- Bit `7 - c` of the byte that packs columns `8 * q` on of a row is column `8 * q + c`. -/
theorem FrameBuffer.packedByte_getLsbD (fb : FrameBuffer) {row col : Nat} (hr : row < 32) (hc : col < 64) :
    (fb.packedByte ((64 * row + col) / 8)).getLsbD (7 - (64 * row + col) % 8) = fb.pixel row col := by
  have hrow : (64 * row + col) / 8 / 8 = row := by omega
  have hbit : 56 - 8 * ((64 * row + col) / 8 % 8) + (7 - (64 * row + col) % 8) = 63 - col := by omega
  have hbyte : 7 - (64 * row + col) % 8 < 8 := by omega
  simp [FrameBuffer.packedByte, FrameBuffer.pixel, hrow, hr, hbit, hbyte, BitVec.getMsbD_eq_getLsbD, hc]

/-- Settles O41. -/
theorem packedFramebufferIsRowMajor : Obligations.PackedFramebufferIsRowMajor := by
  refine fun s => ⟨by simp [State.outputs], rfl, rfl, rfl, fun row hr col hc => ?_⟩
  refine ⟨s.fb.packedByte ((64 * row + col) / 8), ?_, s.fb.packedByte_getLsbD hr hc⟩
  have hindex : (64 * row + col) / 8 < 256 := by omega
  simp [State.outputs, hindex]

end Sys2Proof.Machine

/-! SUPPORT. Key tests, timers, the canonical form of memory, and what no instruction reads. -/

namespace Sys2Proof.Machine

/-! ## Key tests and timers -/

/-- The whole byte names the key, and from 16 on no key is held (R170, R225). -/
theorem keyHeld_iff {keys : BitVec 16} {b : Byte} : keyHeld keys b = true ↔ b.toNat ≤ 15 ∧ keys.getLsbD b.toNat = true := by
  refine ⟨fun h => ⟨?_, h⟩, And.right⟩
  exact Nat.le_of_lt_succ (BitVec.lt_of_getLsbD h)

/-- Settles O27. -/
theorem skipTestsAKey : Obligations.SkipTestsAKey := by
  refine fun s x => ⟨by simp [decode_opE, decodeGroupE], by simp [decode_opE, decodeGroupE],
    ⟨_, rfl, unchangedBut_skipIf, ?_⟩, ⟨_, rfl, unchangedBut_skipIf, ?_⟩⟩
  · simp only [State.skipIf_pc, keyHeld_iff]
  · simp only [State.skipIf_pc, Bool.not_eq_true', ← Bool.not_eq_true, keyHeld_iff, ite_not]

/-- Settles O43. -/
theorem timerInstructionsCopyTheirByte : Obligations.TimerInstructionsCopyTheirByte :=
  fun s x => ⟨⟨_, rfl, fun r => s.reg_setReg x r s.dt, unchangedBut_setReg⟩, ⟨_, rfl, rfl, unchangedBut_dt⟩,
    ⟨_, rfl, rfl, unchangedBut_st⟩⟩

/-! ## The canonical form of memory -/

section Canonical

variable {bg : Nat → Byte} {m : Memory} {a : Nat} {b : Byte}

theorem Memory.mem_of_lookup (h : m.lookup a = some b) : (a, b) ∈ m := by
  induction m with
  | nil => simp [Memory.lookup] at h
  | cons c m ih =>
    rw [Memory.lookup] at h
    split_ifs at h with hc
    · cases h; simp [hc]
    · exact List.mem_cons_of_mem _ (ih h)

theorem Memory.lookup_of_mem (hm : m.Pairwise fun c d => c.1 < d.1) (h : (a, b) ∈ m) : m.lookup a = some b := by
  induction m with
  | nil => simp at h
  | cons c m ih =>
    obtain ⟨hc, hm'⟩ := List.pairwise_cons.mp hm
    rcases List.mem_cons.mp h with rfl | h
    · simp [Memory.lookup]
    · have hne : a ≠ c.1 := Nat.ne_of_gt (hc _ h)
      rw [Memory.lookup, if_neg hne, ih hm' h]

/-- A canonical memory lists a byte exactly where it reads as that byte and the image holds another. -/
theorem Memory.mem_iff_of_wf (hm : m.wf bg) : (a, b) ∈ m ↔ m.read bg a = b ∧ b ≠ bg a := by
  obtain ⟨hrising, hlisted⟩ := hm
  constructor
  · intro h
    exact ⟨by rw [Memory.read, Memory.lookup_of_mem hrising h]; rfl, (hlisted _ h).2⟩
  · rintro ⟨hread, hne⟩
    cases hl : m.lookup a with
    | none => rw [Memory.read, hl] at hread; exact absurd hread.symm hne
    | some c => rw [Memory.read, hl] at hread; cases hread; exact Memory.mem_of_lookup hl

/-- Settles O55: the bytes read decide the entries, and the entries their order. -/
theorem equalBytesAreEqualMemory : Obligations.EqualBytesAreEqualMemory := by
  intro bg m m' hm hm' hread
  have : Std.Irrefl fun c d : Host.Cell => c.1 < d.1 := ⟨fun c => Nat.lt_irrefl c.1⟩
  have : Std.Antisymm fun c d : Host.Cell => c.1 < d.1 := ⟨fun _ _ h h' => absurd h (Nat.lt_asymm h')⟩
  refine List.Pairwise.eq_of_mem_iff hm.1 hm'.1 fun ⟨a, b⟩ => ?_
  rw [Memory.mem_iff_of_wf hm, Memory.mem_iff_of_wf hm', hread]

end Canonical

/-! ## The host's outputs are not read -/

/-- The state with other values of what the host alone reads: ST, DC and FAULT. -/
def State.withOutputs (s : State) (b : Byte) (d : Bool) (f : Option FaultRecord) : State :=
  { s with st := b, dc := d, fault := f }

/-- Two outcomes are next states that differ in ST, DC and FAULT at most, if the first is a next state. -/
def AgreeButOutputs (o o' : Host.Outcome State Fault Refusal) : Prop :=
  ∀ t, o = .next t → ∃ u, o' = .next u ∧ u.withOutputs 0 false none = t.withOutputs 0 false none

theorem agreeButOutputs_next {t u : State} (h : u.withOutputs 0 false none = t.withOutputs 0 false none) :
    AgreeButOutputs (.next t) (.next u) := by
  rintro _ ⟨⟩
  exact ⟨u, rfl, h⟩

theorem agreeButOutputs_ite {c : Prop} {inst : Decidable c} {o₁ o₂ o₁' o₂' : Host.Outcome State Fault Refusal}
    (h₁ : AgreeButOutputs o₁ o₁') (h₂ : AgreeButOutputs o₂ o₂') :
    AgreeButOutputs (if c then o₁ else o₂) (if c then o₁' else o₂') := by
  split_ifs
  · exact h₁
  · exact h₂

section Outputs

variable (s : State) (b : Byte) (d : Bool) (f : Option FaultRecord)

theorem State.writeBytes_withOutputs (base : Nat) (bs : List Byte) :
    (s.withOutputs b d f).writeBytes base bs = (s.writeBytes base bs).withOutputs b d f := by
  induction bs generalizing s base with
  | nil => rfl
  | cons c bs ih => exact ih (s.writeByte base c) (base + 1)

theorem agreeButOutputs_writeBytes (base : Nat) (bs : List Byte) :
    AgreeButOutputs (.next (s.writeBytes base bs)) (.next ((s.withOutputs b d f).writeBytes base bs)) :=
  agreeButOutputs_next (by rw [State.writeBytes_withOutputs]; rfl)

/-- No meaning reads the outputs: each tests and samples other elements only, and writes the outputs, if at all, with values
that do not depend on them. -/
theorem exec_withOutputs (i : Instr) : AgreeButOutputs (exec i s) (exec i (s.withOutputs b d f)) := by
  cases i with
  | ret =>
    rcases s.pop_cases with ⟨hs, hp⟩ | ⟨st, w, hs, hp⟩
    · simp only [exec, execRet, hp, (s.withOutputs b d f).pop_nil hs]
      exact agreeButOutputs_next rfl
    · simp only [exec, execRet, hp, (s.withOutputs b d f).pop_concat hs]
      exact agreeButOutputs_next rfl
  | call nnn => exact agreeButOutputs_ite (agreeButOutputs_next rfl) (agreeButOutputs_next rfl)
  | addI x => exact agreeButOutputs_ite (agreeButOutputs_next rfl) (agreeButOutputs_next rfl)
  | drw x y n => exact agreeButOutputs_ite (agreeButOutputs_next rfl) (agreeButOutputs_next rfl)
  | ldVxK x =>
    have hkeys : (s.withOutputs b d f).keys = s.keys := rfl
    simp only [exec, execLdVxK, hkeys]
    cases lowestKey s.keys with
    | none => exact agreeButOutputs_next rfl
    | some k => exact agreeButOutputs_next rfl
  | ldB x => exact agreeButOutputs_ite (agreeButOutputs_writeBytes s b d f _ _) (agreeButOutputs_next rfl)
  | storeRegs x => exact agreeButOutputs_ite (agreeButOutputs_writeBytes s b d f _ _) (agreeButOutputs_next rfl)
  | loadRegs x => exact agreeButOutputs_ite (agreeButOutputs_next rfl) (agreeButOutputs_next rfl)
  | seImm x nn | sneImm x nn | seReg x y | sneReg x y | skp x | sknp x =>
    refine agreeButOutputs_next ?_
    simp only [State.skipIf_eq]
    rfl
  | _ => exact agreeButOutputs_next rfl

end Outputs

/-- Settles O58: every meaning answers alike, whatever ST, DC and FAULT are. -/
theorem hostOutputsAreNotReadByInstructions : Obligations.HostOutputsAreNotReadByInstructions :=
  fun i s t b d f h => exec_withOutputs s b d f i t h

end Sys2Proof.Machine

/-! SUPPORT. Memory as code: the bytes at `PC`, most significant first, are the instruction that STEP executes. -/

namespace Sys2Proof.Machine

/-- A running machine that fetches a word which decodes executes the decoded instruction, with `PC` advanced (R70). -/
theorem step_of_decode {s : State} {i : Instr} (hf : s.fault = none) (hp : s.pc.toNat + 2 ≤ 4096)
    (hd : decode (s.wordAt s.pc.toNat) = .ok i) : step s = exec i s.advance := by
  rcases step_cases s with ⟨hhalted, -⟩ | ⟨-, hout, -⟩ | ⟨-, -, ⟨e, he⟩, -⟩ | ⟨j, -, -, hj, hs⟩
  · exact absurd hf hhalted
  · omega
  · cases he.symm.trans hd
  · cases hj.symm.trans hd
    exact hs

/-- Settles O6: `wordAt` joins the two bytes at `PC`, the lower address first, and `advance` is the move of `PC`. -/
theorem stepExecutesTheDecodedInstruction : Obligations.StepExecutesTheDecodedInstruction :=
  fun _ _ hf hp hd => step_of_decode hf hp hd

/-- Settles O5: eight closed words, each decoded by evaluation. -/
theorem sampleBytesDecode : Obligations.SampleBytesDecode := by
  unfold Obligations.SampleBytesDecode
  decide

end Sys2Proof.Machine

/-! SUPPORT. Decoder, encoder and opcode map agree: a word and its instruction, the rows of the map, the illegal words. -/

namespace Sys2Proof.Machine

section Encoding

variable {w : Word} {i j : Instr} {op n : BitVec 4} {nn : Byte}

/-! ## A word out of the fields that decode read from it -/

theorem formatA_of_op (hop : fieldOp w = op) : formatA op (fieldNNN w) = w := by
  rw [← hop, formatA_fields]

theorem formatI_of_op (hop : fieldOp w = op) : formatI op (fieldX w) (fieldNN w) = w := by
  rw [← hop, formatI_fields]

theorem formatI_of_op_nn (hop : fieldOp w = op) (hnn : fieldNN w = nn) : formatI op (fieldX w) nn = w := by
  rw [← hnn, formatI_of_op hop]

theorem formatR_of_op_n (hop : fieldOp w = op) (hn : fieldN w = n) : formatR op (fieldX w) (fieldY w) n = w := by
  rw [← hop, ← hn, formatR_fields]

/-! ## Decode after encode -/

/-- In the word of an instruction each field reads as its operand, and `op` with the function field selects the constructor
(R72, R74). -/
theorem decode_encode (i : Instr) : decode (encode i) = .ok i := by
  cases i with
  | cls | ret => decide
  | jp nnn => simp [encode, decode_op1]
  | call nnn => simp [encode, decode_op2]
  | seImm x nn => simp [encode, decode_op3]
  | sneImm x nn => simp [encode, decode_op4]
  | seReg x y => simp [encode, decode_op5, decodeSkipReg]
  | ldImm x nn => simp [encode, decode_op6]
  | addImm x nn => simp [encode, decode_op7]
  | ldReg x y | orReg x y | andReg x y | xorReg x y | addReg x y | subReg x y | shr x y | subnReg x y | shl x y =>
    simp [encode, decode_op8, decodeGroup8]
  | sneReg x y => simp [encode, decode_op9, decodeSkipReg]
  | ldI nnn => simp [encode, decode_opA]
  | jpV0 nnn => simp [encode, decode_opB]
  | rnd x nn => simp [encode, decode_opC]
  | drw x y n => simp [encode, decode_opD]
  | skp x | sknp x => simp [encode, decode_opE, decodeGroupE]
  | ldVxDt x | ldVxK x | ldDtVx x | ldStVx x | addI x | ldF x | ldB x | storeRegs x | loadRegs x =>
    simp [encode, decode_opF, decodeGroupF]

/-- Settles O1. -/
theorem decodeOfEncodeIsTheInstruction : Obligations.DecodeOfEncodeIsTheInstruction := decode_encode

/-! ## Encode after decode -/

/-- A chain of tests answers an instruction at the first test that holds; `hj` says that the test tells the word. -/
theorem encode_of_ite {c : Prop} [Decidable c] {r : DecodeResult} (hj : c → encode j = w) (hr : r = .ok i → encode i = w)
    (h : (if c then .ok j else r) = .ok i) : encode i = w := by
  split_ifs at h with hc
  · cases h; exact hj hc
  · exact hr h

theorem encode_of_decodeGroup0 : decodeGroup0 w = .ok i → encode i = w :=
  encode_of_ite Eq.symm (encode_of_ite Eq.symm nofun)

theorem encode_of_decodeSkipReg {make : Reg → Reg → Instr} (hmake : ∀ x y, encode (make x y) = formatR op x y 0)
    (hop : fieldOp w = op) : decodeSkipReg w make = .ok i → encode i = w :=
  encode_of_ite (fun hn => (hmake _ _).trans (formatR_of_op_n hop hn)) nofun

theorem encode_of_decodeGroup8 (hop : fieldOp w = 0x8) : decodeGroup8 w = .ok i → encode i = w := by
  iterate 9 refine encode_of_ite (formatR_of_op_n hop) ?_
  exact nofun

theorem encode_of_decodeGroupE (hop : fieldOp w = 0xE) : decodeGroupE w = .ok i → encode i = w := by
  iterate 2 refine encode_of_ite (formatI_of_op_nn hop) ?_
  exact nofun

theorem encode_of_decodeGroupF (hop : fieldOp w = 0xF) : decodeGroupF w = .ok i → encode i = w := by
  iterate 9 refine encode_of_ite (formatI_of_op_nn hop) ?_
  exact nofun

/-- The fields that decode read, put together again, are the word (R71). -/
theorem encode_of_decode (h : decode w = .ok i) : encode i = w := by
  rcases nibble_cases (fieldOp w) with hop | hop | hop | hop | hop | hop | hop | hop | hop | hop | hop | hop | hop | hop |
    hop | hop
  · exact encode_of_decodeGroup0 (decode_op0 hop ▸ h)
  · cases (decode_op1 hop).symm.trans h; exact formatA_of_op hop
  · cases (decode_op2 hop).symm.trans h; exact formatA_of_op hop
  · cases (decode_op3 hop).symm.trans h; exact formatI_of_op hop
  · cases (decode_op4 hop).symm.trans h; exact formatI_of_op hop
  · exact encode_of_decodeSkipReg (fun _ _ => rfl) hop (decode_op5 hop ▸ h)
  · cases (decode_op6 hop).symm.trans h; exact formatI_of_op hop
  · cases (decode_op7 hop).symm.trans h; exact formatI_of_op hop
  · exact encode_of_decodeGroup8 hop (decode_op8 hop ▸ h)
  · exact encode_of_decodeSkipReg (fun _ _ => rfl) hop (decode_op9 hop ▸ h)
  · cases (decode_opA hop).symm.trans h; exact formatA_of_op hop
  · cases (decode_opB hop).symm.trans h; exact formatA_of_op hop
  · cases (decode_opC hop).symm.trans h; exact formatI_of_op hop
  · cases (decode_opD hop).symm.trans h; exact formatR_of_op_n hop rfl
  · exact encode_of_decodeGroupE hop (decode_opE hop ▸ h)
  · exact encode_of_decodeGroupF hop (decode_opF hop ▸ h)

/-- Settles O2. -/
theorem encodeOfDecodeIsTheWord : Obligations.EncodeOfDecodeIsTheWord := fun _ _ h => encode_of_decode h

/-! ## The rows of the opcode map (R75) -/

theorem fieldOp_of_and_F000 {m : Word} (h : w &&& 0xF000#16 = m) : fieldOp w = m.extractLsb' 12 4 := by
  rw [← h, and_F000]
  exact (fieldOp_formatA (fieldOp w) 0).symm

theorem fields_of_and_F00F {m : Word} (h : w &&& 0xF00F#16 = m) :
    fieldOp w = m.extractLsb' 12 4 ∧ fieldN w = m.extractLsb' 0 4 := by
  rw [← h, and_F00F]
  exact ⟨(fieldOp_formatR (fieldOp w) (fieldN w) 0 0).symm, (fieldN_formatR (fieldOp w) (fieldN w) 0 0).symm⟩

theorem fields_of_and_F0FF {m : Word} (h : w &&& 0xF0FF#16 = m) :
    fieldOp w = m.extractLsb' 12 4 ∧ fieldNN w = m.extractLsb' 0 8 := by
  rw [← h, and_F0FF]
  exact ⟨(fieldOp_formatI (fieldOp w) 0 (fieldNN w)).symm, (fieldNN_formatI (fieldOp w) 0 (fieldNN w)).symm⟩

theorem opcodeRow_mem_opcodeMap (i : Instr) : opcodeRow i ∈ opcodeMap := by
  cases i <;> exact List.mem_of_elem_eq_true rfl

/-- Two rows of the opcode map that one word could match are the same row: R75 lists no overlapping rows. -/
theorem opcodeMap_disjoint :
    ∀ r ∈ opcodeMap, ∀ r' ∈ opcodeMap, r.bits &&& r'.mask = r'.bits &&& r.mask → r = r' := by
  decide

/-- No word matches two rows of the opcode map. -/
theorem opcodeRow_unique {r r' : OpcodeRow} (hr : r ∈ opcodeMap) (hr' : r' ∈ opcodeMap) (h : w &&& r.mask = r.bits)
    (h' : w &&& r'.mask = r'.bits) : r = r' := by
  refine opcodeMap_disjoint r hr r' hr' ?_
  rw [← h, ← h', BitVec.and_assoc, BitVec.and_assoc, BitVec.and_comm r.mask]

open Laws.Encoding in
/-- The lemmas of Laws/PerInstr.lean, one a constructor, put together. -/
theorem opcodeRow_holds_encode (i : Instr) : Statement i := by
  cases i <;> simp only [cls, ret, jp, call, seImm, sneImm, seReg, ldImm, addImm, ldReg, orReg, andReg, xorReg, addReg,
    subReg, shr, subnReg, shl, sneReg, ldI, jpV0, rnd, drw, skp, sknp, ldVxDt, ldVxK, ldDtVx, ldStVx, addI, ldF, ldB,
    storeRegs, loadRegs]

theorem and_mask_of_decode (h : decode w = .ok i) : w &&& (opcodeRow i).mask = (opcodeRow i).bits := by
  rw [← encode_of_decode h]
  exact beq_iff_eq.mp (opcodeRow_holds_encode i)

/-- A word that matches a row decodes: the mask of a row covers `op` and all that its group is dispatched on (R74). -/
theorem decode_ne_error_of_and_mask (h : w &&& (opcodeRow j).mask = (opcodeRow j).bits) (e : DecodeError) :
    decode w ≠ .error e := by
  cases j with simp only [opcodeRow] at h
  | cls | ret =>
    rw [(and_FFFF w).symm.trans h]
    simp [decode, fieldOp, decodeGroup0]
  | jp _ | call _ | seImm _ _ | sneImm _ _ | ldImm _ _ | addImm _ _ | ldI _ | jpV0 _ | rnd _ _ | drw _ _ _ =>
    simp [decode, fieldOp_of_and_F000 h]
  | seReg _ _ | sneReg _ _ =>
    obtain ⟨hop, hn⟩ := fields_of_and_F00F h
    simp [decode_op5, decode_op9, hop, decodeSkipReg, hn]
  | ldReg _ _ | orReg _ _ | andReg _ _ | xorReg _ _ | addReg _ _ | subReg _ _ | shr _ _ | subnReg _ _ | shl _ _ =>
    obtain ⟨hop, hn⟩ := fields_of_and_F00F h
    simp [decode_op8, hop, decodeGroup8, hn]
  | skp _ | sknp _ =>
    obtain ⟨hop, hnn⟩ := fields_of_and_F0FF h
    simp [decode_opE, hop, decodeGroupE, hnn]
  | ldVxDt _ | ldVxK _ | ldDtVx _ | ldStVx _ | addI _ | ldF _ | ldB _ | storeRegs _ | loadRegs _ =>
    obtain ⟨hop, hnn⟩ := fields_of_and_F0FF h
    simp [decode_opF, hop, decodeGroupF, hnn]

/-- Settles O3: a word that matches a row decodes, to an instruction whose row it matches as well, and no word matches two. -/
theorem decodeFollowsOpcodeMap : Obligations.DecodeFollowsOpcodeMap := by
  refine ⟨rfl, fun w i h => ⟨opcodeRow_mem_opcodeMap i, and_mask_of_decode h⟩, fun w r hr h => ?_⟩
  cases hd : decode w with
  | ok i => exact ⟨i, rfl, opcodeRow_unique (opcodeRow_mem_opcodeMap i) hr (and_mask_of_decode hd) h⟩
  | error e =>
    obtain ⟨j, -, rfl⟩ := List.mem_map.mp hr
    exact absurd hd (decode_ne_error_of_and_mask h e)

/-! ## The illegal words -/

/-- A chain of tests refuses a word when no test holds. -/
theorem ite_ok_eq_error_iff {c : Prop} [Decidable c] {r : DecodeResult} {e : DecodeError} :
    (if c then .ok j else r) = .error e ↔ ¬ c ∧ r = .error e := by
  split_ifs with hc <;> simp [hc]

/-- In group 0 `nnn` is the word (R74). -/
theorem decodeGroup0_eq_error_iff (hop : fieldOp w = 0x0) :
    decodeGroup0 w = .error (.invalidOpcode w) ↔ fieldNNN w ≠ 0x0E0 ∧ fieldNNN w ≠ 0x0EE := by
  have hword (nnn : BitVec 12) : w = formatA 0x0 nnn ↔ fieldNNN w = nnn :=
    ⟨fun h => h ▸ fieldNNN_formatA _ _, fun h => h ▸ (formatA_of_op hop).symm⟩
  have hcls : w = 0x00E0#16 ↔ fieldNNN w = 0x0E0 := hword 0x0E0
  have hret : w = 0x00EE#16 ↔ fieldNNN w = 0x0EE := hword 0x0EE
  simp [decodeGroup0, ite_ok_eq_error_iff, hcls, hret]

theorem decodeSkipReg_eq_error_iff (make : Reg → Reg → Instr) :
    decodeSkipReg w make = .error (.invalidOpcode w) ↔ fieldN w ≠ 0 := by
  simp [decodeSkipReg]

theorem decodeGroup8_eq_error_iff :
    decodeGroup8 w = .error (.invalidOpcode w) ↔ fieldN w ∈ [0x8, 0x9, 0xA, 0xB, 0xC, 0xD, 0xF] := by
  simp only [decodeGroup8, ite_ok_eq_error_iff]
  generalize fieldN w = n
  rcases nibble_cases n with rfl | rfl | rfl | rfl | rfl | rfl | rfl | rfl | rfl | rfl | rfl | rfl | rfl | rfl | rfl | rfl <;>
    simp

theorem decodeGroupE_eq_error_iff : decodeGroupE w = .error (.invalidOpcode w) ↔ fieldNN w ∉ [0x9E, 0xA1] := by
  simp [decodeGroupE, ite_ok_eq_error_iff]

theorem decodeGroupF_eq_error_iff :
    decodeGroupF w = .error (.invalidOpcode w) ↔
      fieldNN w ∉ [0x07, 0x0A, 0x15, 0x18, 0x1E, 0x29, 0x33, 0x55, 0x65] := by
  simp [decodeGroupF, ite_ok_eq_error_iff]

/-- Settles O4: group by group of the high nibble. -/
theorem illegalWordsAreThoseListed : Obligations.IllegalWordsAreThoseListed := by
  intro w
  rcases nibble_cases (fieldOp w) with hop | hop | hop | hop | hop | hop | hop | hop | hop | hop | hop | hop | hop | hop |
    hop | hop
  · rw [decode_op0 hop, decodeGroup0_eq_error_iff hop]; simp [hop]
  · simp [decode_op1 hop, hop]
  · simp [decode_op2 hop, hop]
  · simp [decode_op3 hop, hop]
  · simp [decode_op4 hop, hop]
  · rw [decode_op5 hop, decodeSkipReg_eq_error_iff]; simp [hop]
  · simp [decode_op6 hop, hop]
  · simp [decode_op7 hop, hop]
  · rw [decode_op8 hop, decodeGroup8_eq_error_iff]; simp [hop]
  · rw [decode_op9 hop, decodeSkipReg_eq_error_iff]; simp [hop]
  · simp [decode_opA hop, hop]
  · simp [decode_opB hop, hop]
  · simp [decode_opC hop, hop]
  · simp [decode_opD hop, hop]
  · rw [decode_opE hop, decodeGroupE_eq_error_iff]; simp [hop]
  · rw [decode_opF hop, decodeGroupF_eq_error_iff]; simp [hop]

end Encoding

/-- Settles O25: the encodings from `decode_encode`, the effect that of `skipIf`. -/
theorem skipComparesWithImmediate : Obligations.SkipComparesWithImmediate := by
  refine fun s x nn => ⟨decode_encode (.seImm x nn), decode_encode (.sneImm x nn),
    ⟨_, rfl, ?_, unchangedBut_skipIf⟩, ⟨_, rfl, ?_, unchangedBut_skipIf⟩⟩
  · simp only [State.skipIf_pc, beq_iff_eq]
  · simp only [State.skipIf_pc, bne_iff_ne]

end Sys2Proof.Machine

/-! SUPPORT. Control transfer: the addresses 1nnn and Bnnn compute, 00EE and 2nnn where they do not fault, the idle state. -/

namespace Sys2Proof.Machine

section Flow

variable {s : State} {st : List Word} {w : Word} {nnn : BitVec 12}

/-! ## Addresses -/

theorem zextAddr_toNat (nnn : BitVec 12) : (zextAddr nnn).toNat = nnn.toNat :=
  BitVec.toNat_setWidth_of_le (by decide)

theorem zextByte_toNat (b : Byte) : (zextByte b).toNat = b.toNat := BitVec.toNat_setWidth_of_le (by decide)

theorem zextAddr_le (nnn : BitVec 12) : (zextAddr nnn).toNat ≤ 0xFFF := by
  rw [zextAddr_toNat]; omega

/-- No target of Bnnn is above 0x10FE, in either mode (R23, R103). -/
theorem State.offsetTarget_le (s : State) (nnn : BitVec 12) : (s.offsetTarget nnn).toNat ≤ 0x10FE := by
  unfold State.offsetTarget
  split <;> simp only [BitVec.toNat_add, zextAddr_toNat, zextByte_toNat] <;> omega

/-! ## Return and call without a fault -/

theorem exec_ret_of_concat (h : s.stack = st ++ [w]) : exec .ret s = .next (State.jump { s with stack := st } w) := by
  rw [exec, execRet, s.pop_concat h]

theorem exec_call_of_not_full (h : s.cfg.stackDepth ≠ some s.stack.length) :
    exec (.call nnn) s = .next ((s.push s.pc).jump (zextAddr nnn)) :=
  ((execCall_cases s nnn).resolve_left fun hfull => h hfull.1).2

/-! ## The idle state (R250) -/

/-- The word at the `PC` of an idle machine is the jump to that `PC`. -/
theorem State.idle.wordAt_eq (h : s.idle) : s.wordAt s.pc.toNat = encode (.jp (s.pc.setWidth 12)) := by
  obtain ⟨-, hpc, hword⟩ := h
  apply BitVec.eq_of_toNat_eq
  rw [hword, encode, formatA_toNat, BitVec.toNat_setWidth, Nat.mod_eq_of_lt (by omega)]
  rfl

/-- A `PC` below 4096 is the zero-extension of its 12 low bits. -/
theorem zextAddr_setWidth (hw : w.toNat < 4096) : zextAddr (w.setWidth 12) = w := by
  apply BitVec.eq_of_toNat_eq
  rw [zextAddr_toNat, BitVec.toNat_setWidth, Nat.mod_eq_of_lt hw]

end Flow

/-- Settles O56: STEP executes the jump, which takes `PC` from the next instruction back to where it was. -/
theorem idleStepChangesNothing : Obligations.IdleStepChangesNothing := by
  intro s h
  obtain ⟨hrun, hpc, -⟩ := id h
  calc step s
      = exec (.jp (s.pc.setWidth 12)) s.advance :=
        step_of_decode hrun (by omega) (by rw [h.wordAt_eq, decode_encode])
    _ = .next (s.advance.jump (zextAddr (s.pc.setWidth 12))) := rfl
    _ = .next s := by rw [zextAddr_setWidth (by omega)]; rfl

/-- Settles O20: a jump writes `PC` alone, and zero-extension keeps the value. -/
theorem jumpSetsThePc : Obligations.JumpSetsThePc :=
  fun _ nnn => ⟨_, rfl, zextAddr_toNat nnn, unchangedBut_jump⟩

/-- Settles O21: a pop and a jump to the popped address. -/
theorem returnPopsTheTop : Obligations.ReturnPopsTheTop := fun _ _ _ hs =>
  ⟨_, exec_ret_of_concat hs, rfl, rfl, (unchangedBut_stack.trans unchangedBut_jump).mono (by simp)⟩

/-- Settles O23: the stack the return meets is the caller's with the caller's `PC` on top. -/
theorem returnUndoesCall : Obligations.ReturnUndoesCall := fun s _ _ hs =>
  ⟨_, exec_call_of_not_full hs, exec_ret_of_concat (st := s.stack) (w := s.pc) rfl⟩

end Sys2Proof.Machine

/-! SUPPORT. The machine invariant: which operations keep it, and under what condition; that every instruction and every STEP
does. -/

namespace Sys2Proof.Machine

section Invariant

variable {s t : State} {w : Word} {c : Bool} {i : Instr}

/-! ## The operations -/

theorem Invariant.jump (hi : Invariant s) (hrun : s.fault = none) (hw : w.toNat ≤ 0x10FE) : Invariant (s.jump w) := by
  obtain ⟨hmem, hdepth, -, hret, -⟩ := hi
  exact ⟨hmem, hdepth, hw, hret, by simp [hrun]⟩

/-- A raise keeps the invariant if its record is as R204 says; it freezes `PC` as the record has it. -/
theorem Invariant.raise {k : FaultKind} {o : Option Word} {a : Option Nat} (hi : Invariant s)
    (hr : FaultRecord.wellFormed ⟨k, o, s.pc, a⟩) : Invariant (s.raise k o a) := by
  obtain ⟨hmem, hdepth, hpc, hret, -⟩ := hi
  refine ⟨hmem, hdepth, hpc, hret, ?_⟩
  rintro _ ⟨⟩
  exact ⟨hr, rfl⟩

/-- The record of a raise in an instruction has a word; its address is there exactly for OutOfBounds. -/
theorem Invariant.raiseIn {k : FaultKind} {a : Option Nat} (hi : Invariant s)
    (ha : a.isSome = true ↔ k = .outOfBounds) : Invariant (s.raiseIn i k a) := hi.raise ⟨ha, nofun⟩

theorem Invariant.raiseRange {base : Nat} (hi : Invariant s) : Invariant (s.raiseRange i base) := hi.raiseIn (by simp)

theorem Invariant.writeBytes {base : Nat} {bs : List Byte} (hi : Invariant s) (h : base + bs.length ≤ 4096) :
    Invariant (s.writeBytes base bs) := by
  obtain ⟨hmem, hrest⟩ := hi
  refine ⟨?_, by simpa using hrest⟩
  rw [State.writeBytes_image]
  exact s.writeBytes_wf hmem h

theorem Invariant.push (hi : Invariant s) (hfull : s.cfg.stackDepth ≠ some s.stack.length) (hw : w.toNat ≤ 0x1000) :
    Invariant (s.push w) := by
  obtain ⟨hmem, hdepth, hpc, hret, hfault⟩ := hi
  refine ⟨hmem, fun d hd => ?_, hpc, fun v hv => ?_, hfault⟩
  · have hle := hdepth d hd
    have hne : s.stack.length ≠ d := fun h => hfull (h ▸ hd)
    rw [State.push_stack, List.length_append, List.length_singleton]
    omega
  · rcases List.mem_append.mp hv with hv | hv
    · exact hret v hv
    · rw [List.mem_singleton.mp hv]; exact hw

/-- A pop keeps the invariant, which bounds the popped address. -/
theorem Invariant.pop {st : List Word} (hi : Invariant s) (hs : s.stack = st ++ [w]) :
    Invariant { s with stack := st } ∧ w.toNat ≤ 0x1000 := by
  obtain ⟨hmem, hdepth, hpc, hret, hfault⟩ := hi
  rw [hs] at hret
  refine ⟨⟨hmem, fun d hd => ?_, hpc, fun v hv => hret v (by simp [hv]), hfault⟩, hret w (by simp)⟩
  have hle := hdepth d hd
  rw [hs, List.length_append] at hle
  exact Nat.le_of_add_right_le hle

/-! ## Instructions -/

/-- Where an instruction executes: the invariant holds, the machine runs, and `PC` is 2 past an address that was fetched
from (R55, R70). -/
def State.Executing (s : State) : Prop :=
  Invariant s ∧ s.fault = none ∧ 2 ≤ s.pc.toNat ∧ s.pc.toNat ≤ 0x1000

/-- The fetch advance reaches a state where an instruction executes. -/
theorem Invariant.executing_advance (hi : Invariant s) (hrun : s.fault = none) (hp : s.pc.toNat + 2 ≤ 4096) :
    s.advance.Executing := by
  have hpc : s.advance.pc.toNat = s.pc.toNat + 2 := by rw [State.advance_pc]; bv_omega
  exact ⟨hi.jump (w := s.pc + 2) hrun (by rw [← State.advance_pc]; omega), hrun, by omega, by omega⟩

/-- A taken skip leaves `PC` at 0x1002 at most (R23). -/
theorem State.Executing.skipIf (hs : s.Executing) : Invariant (s.skipIf c) := by
  obtain ⟨hi, hrun, -, hpc⟩ := hs
  cases c with
  | false => exact hi
  | true => exact hi.jump (w := s.pc + 2) hrun (by bv_omega)

/-- Every instruction keeps the invariant: those that write registers, `I`, the framebuffer or the timers alone, by
definition, since the invariant speaks of none of them; the others by the operations they are made of. -/
theorem State.Executing.exec_invariant (hs : s.Executing) (h : exec i s = .next t) : Invariant t := by
  obtain ⟨hi, hrun, hpc₂, hpc⟩ := id hs
  cases i with
  | cls | ldImm x nn | addImm x nn | ldReg x y | orReg x y | andReg x y | xorReg x y | addReg x y | subReg x y | shr x y
  | subnReg x y | shl x y | ldI nnn | rnd x nn | ldVxDt x | ldDtVx x | ldStVx x | ldF x => cases h; exact hi
  | seImm x nn | sneImm x nn | seReg x y | sneReg x y | skp x | sknp x => cases h; exact hs.skipIf
  | jp nnn => cases h; exact hi.jump hrun ((zextAddr_le nnn).trans (by decide))
  | jpV0 nnn => cases h; exact hi.jump hrun (s.offsetTarget_le nnn)
  | ret =>
    rcases execRet_cases s with ⟨-, he⟩ | ⟨st, w, hst, he⟩
    · cases he.symm.trans h; exact hi.raiseIn (by simp)
    · obtain ⟨hpop, hw⟩ := hi.pop hst
      cases he.symm.trans h; exact hpop.jump hrun (hw.trans (by decide))
  | call nnn =>
    rcases execCall_cases s nnn with ⟨-, he⟩ | ⟨hfull, he⟩
    · cases he.symm.trans h; exact hi.raiseIn (by simp)
    · cases he.symm.trans h; exact (hi.push hfull hpc).jump hrun ((zextAddr_le nnn).trans (by decide))
  | addI x =>
    rcases execAddI_cases s x with ⟨-, he⟩ | ⟨-, he⟩
    · cases he.symm.trans h; exact hi.raiseIn (by simp)
    · cases he.symm.trans h; exact hi
  | drw x y n =>
    rcases execDrw_cases s x y n with ⟨-, he⟩ | ⟨-, drawn, -, he⟩
    · cases he.symm.trans h; exact hi.raiseRange
    · cases he.symm.trans h; exact hi
  | ldVxK x =>
    rcases execLdVxK_cases s x with ⟨-, he⟩ | ⟨k, -, he⟩
    · cases he.symm.trans h; exact hi.jump hrun (by bv_omega)
    · cases he.symm.trans h; exact hi
  | ldB x =>
    rcases execLdB_cases s x with ⟨-, he⟩ | ⟨hfits, he⟩
    · cases he.symm.trans h; exact hi.raiseRange
    · cases he.symm.trans h; exact hi.writeBytes hfits
  | storeRegs x =>
    rcases execStoreRegs_cases s x with ⟨-, he⟩ | ⟨hfits, he⟩
    · cases he.symm.trans h; exact hi.raiseRange
    · cases he.symm.trans h; exact hi.writeBytes (by rw [State.regsUpTo_length]; exact hfits)
  | loadRegs x =>
    rcases execLoadRegs_cases s x with ⟨-, he⟩ | ⟨-, he⟩
    · cases he.symm.trans h; exact hi.raiseRange
    · cases he.symm.trans h; exact hi

end Invariant

/-- Settles O52: nothing happens on a halted machine; a fetch fault and a decode fault are raises; and an instruction executes
where `State.Executing` holds. -/
theorem stepKeepsTheMachineInvariant : Obligations.StepKeepsTheMachineInvariant := by
  intro s t hi h
  rcases step_cases s with ⟨-, hs⟩ | ⟨-, -, hs⟩ | ⟨hrun, hp, -, hs⟩ | ⟨i, hrun, hp, -, hs⟩
  · cases hs.symm.trans h; exact hi
  · cases hs.symm.trans h
    exact hi.raise ⟨by simp, fun _ => ⟨rfl, rfl⟩⟩
  · cases hs.symm.trans h
    obtain ⟨hadvance, -⟩ := hi.executing_advance hrun hp
    exact hadvance.raise ⟨by simp, nofun⟩
  · exact (hi.executing_advance hrun hp).exec_invariant (hs.symm.trans h)

end Sys2Proof.Machine

/-! SUPPORT. The register skips 5xy0 and 9xy0. -/

namespace Sys2Proof.Machine

/-- Settles O26: the encodings from `decode_encode`, the illegal words from the dispatch of groups 5 and 9 on `n`, the effect
that of `skipIf`. -/
theorem skipComparesRegisters : Obligations.SkipComparesRegisters := by
  refine fun s x y => ⟨decode_encode (.seReg x y), decode_encode (.sneReg x y), fun n hn => ⟨?_, ?_⟩,
    ⟨_, rfl, ?_, unchangedBut_skipIf⟩, ⟨_, rfl, ?_, unchangedBut_skipIf⟩⟩
  · rwa [decode_op5 (fieldOp_formatR 0x5 n x y), decodeSkipReg_eq_error_iff, fieldN_formatR]
  · rwa [decode_op9 (fieldOp_formatR 0x9 n x y), decodeSkipReg_eq_error_iff, fieldN_formatR]
  · simp only [State.skipIf_pc, beq_iff_eq]
  · simp only [State.skipIf_pc, bne_iff_ne]

end Sys2Proof.Machine

/-! SUPPORT. The immediate load 6xnn and the immediate addition 7xnn. -/

namespace Sys2Proof.Machine

/-- Settles O28: the encoding from `decode_encode`, the effect that of one register write. -/
theorem loadImmediateSetsTheRegister : Obligations.LoadImmediateSetsTheRegister := fun s x nn =>
  ⟨decode_encode (.ldImm x nn), _, rfl, fun r => s.reg_setReg x r nn, unchangedBut_setReg⟩

/-- Settles O29: one register write of a byte sum, which wraps at 256; VF is a register like the others. -/
theorem addImmediateWrapsWithoutFlag : Obligations.AddImmediateWrapsWithoutFlag := by
  refine fun s x nn => ⟨decode_encode (.addImm x nn), _, rfl, ?_, fun r hr => ?_, unchangedBut_setReg⟩
  · rw [State.reg_setReg, if_pos rfl, BitVec.toNat_add]
  · exact State.reg_setReg_of_ne (beq_false_of_ne hr)

end Sys2Proof.Machine

/-! SUPPORT. The register-register instructions 8xy0 to 8xy7 and 8xyE. -/

namespace Sys2Proof.Machine

/-! ## What `setResultFlag` and `setReg` leave in each register (R130) -/

section ResultAndFlag

variable {s : State} {x : Reg} {b : Byte} {f : Bool}

/-- The flag is written last, so it stays in VF whatever `x` is. -/
theorem State.reg_setResultFlag_vf : (s.setResultFlag x b f).reg Reg.vf = flagByte f := by
  rw [State.reg_setResultFlag, if_pos rfl]

theorem State.reg_setResultFlag_dest (hx : x ≠ Reg.vf) : (s.setResultFlag x b f).reg x = b := by
  rw [State.reg_setResultFlag, if_neg hx, if_pos rfl]

theorem State.reg_setResultFlag_other (r : Reg) (hx : r ≠ x) (hvf : r ≠ Reg.vf) :
    (s.setResultFlag x b f).reg r = s.reg r := by
  rw [State.reg_setResultFlag, if_neg hvf, if_neg hx]

end ResultAndFlag

/-- One register write: `b` in `V[x]`, every other register and all else as before. -/
theorem State.reg_setReg_frame (s : State) (x : Reg) (b : Byte) :
    (∀ r, (s.setReg x b).reg r = if r = x then b else s.reg r) ∧ UnchangedBut [.regs] s (s.setReg x b) :=
  ⟨fun r => s.reg_setReg x r b, unchangedBut_setReg⟩

/-! ## The flags and the results as numbers (R135 to R139) -/

section Values

variable (a b : Byte)

theorem flagByte_carryFlag : flagByte (carryFlag a b) = if a.toNat + b.toNat > 255 then 1 else 0 := by
  simp only [flagByte, carryFlag, decide_eq_true_eq]

theorem flagByte_notBorrowFlag : flagByte (notBorrowFlag a b) = if b.toNat ≤ a.toNat then 1 else 0 := by
  simp only [flagByte, notBorrowFlag, decide_eq_true_eq, ge_iff_le]

theorem flagByte_toNat (c : Bool) : (flagByte c).toNat = c.toNat := by cases c <;> rfl

/-- Bit 0 of a byte is its remainder by 2. -/
theorem flagByte_shiftRightFlag_toNat : (flagByte (shiftRightFlag a)).toNat = a.toNat % 2 := by
  rw [flagByte_toNat, shiftRightFlag, BitVec.getLsbD, Nat.toNat_testBit, Nat.pow_zero, Nat.div_one]

/-- Bit 7 of a byte is its quotient by 128, which is below 2. -/
theorem flagByte_shiftLeftFlag_toNat : (flagByte (shiftLeftFlag a)).toNat = a.toNat / 128 := by
  rw [flagByte_toNat, shiftLeftFlag, BitVec.getLsbD, Nat.toNat_testBit]
  exact Nat.mod_eq_of_lt (by have := a.isLt; omega)

theorem byte_sub_toNat : (a - b).toNat = (a.toNat + 256 - b.toNat) % 256 := by
  have := b.isLt
  rw [BitVec.toNat_sub]
  omega

theorem byte_ushiftRight_one_toNat : (a >>> 1).toNat = a.toNat / 2 := by
  rw [BitVec.toNat_ushiftRight, Nat.shiftRight_one]

theorem byte_shiftLeft_one_toNat : (a <<< 1).toNat = 2 * a.toNat % 256 := by
  rw [BitVec.toNat_shiftLeft, Nat.shiftLeft_eq, Nat.mul_comm, Nat.pow_one]

end Values

/-- Settles O31: the encodings from `decode_encode`, each effect that of one register write. -/
theorem copyAndLogicWriteNoFlag : Obligations.CopyAndLogicWriteNoFlag := fun s x y =>
  ⟨decode_encode (.ldReg x y), decode_encode (.orReg x y), decode_encode (.andReg x y), decode_encode (.xorReg x y),
    ⟨_, rfl, s.reg_setReg_frame x _⟩, ⟨_, rfl, s.reg_setReg_frame x _⟩, ⟨_, rfl, s.reg_setReg_frame x _⟩,
    ⟨_, rfl, s.reg_setReg_frame x _⟩⟩

/-- Settles O32: the carry stays in VF, and elsewhere the byte sum wraps at 256. -/
theorem addSetsCarry : Obligations.AddSetsCarry := by
  refine fun s x y => ⟨decode_encode (.addReg x y), _, rfl, ?_, fun hx => ?_, State.reg_setResultFlag_other,
    unchangedBut_setResultFlag⟩
  · rw [State.reg_setResultFlag_vf, flagByte_carryFlag]
  · rw [State.reg_setResultFlag_dest hx, BitVec.toNat_add]

/-- Settles O33: 8xy7 is 8xy5 with the operands exchanged; not-borrow stays in VF, and elsewhere the difference wraps at 256. -/
theorem subtractSetsNotBorrow : Obligations.SubtractSetsNotBorrow := by
  refine fun s x y => ⟨decode_encode (.subReg x y), decode_encode (.subnReg x y),
    ⟨_, rfl, ?_, fun hx => ?_, State.reg_setResultFlag_other, unchangedBut_setResultFlag⟩,
    ⟨_, rfl, ?_, fun hx => ?_, State.reg_setResultFlag_other, unchangedBut_setResultFlag⟩⟩
  · rw [State.reg_setResultFlag_vf, flagByte_notBorrowFlag]
  · rw [State.reg_setResultFlag_dest hx, byte_sub_toNat]
  · rw [State.reg_setResultFlag_vf, flagByte_notBorrowFlag]
  · rw [State.reg_setResultFlag_dest hx, byte_sub_toNat]

/-- Settles O34: neither meaning reads the register of `y` or MODE; the bit shifted out stays in VF, and elsewhere the byte is
halved or doubled. -/
theorem shiftsMoveOneBitIntoVf : Obligations.ShiftsMoveOneBitIntoVf := by
  refine fun s x y => ⟨decode_encode (.shr x y), decode_encode (.shl x y),
    ⟨_, rfl, ?_, fun hx => ?_, State.reg_setResultFlag_other, unchangedBut_setResultFlag⟩,
    ⟨_, rfl, ?_, fun hx => ?_, State.reg_setResultFlag_other, unchangedBut_setResultFlag⟩⟩
  · rw [State.reg_setResultFlag_vf, flagByte_shiftRightFlag_toNat]
  · rw [State.reg_setResultFlag_dest hx, byte_ushiftRight_one_toNat]
  · rw [State.reg_setResultFlag_vf, flagByte_shiftLeftFlag_toNat]
  · rw [State.reg_setResultFlag_dest hx, byte_shiftLeft_one_toNat]

end Sys2Proof.Machine

/-! SUPPORT. The index register loads Annn and Fx29. -/

namespace Sys2Proof.Machine

/-- The glyph address of any byte is at most 0x54B, so no 16-bit address wraps (R151). -/
theorem glyphAddr_toNat (b : Byte) : (glyphAddr b).toNat = 0x050 + 5 * b.toNat := by
  have hb : 0x050 + 5 * b.toNat < 2 ^ 16 := by have := b.isLt; omega
  exact (BitVec.toNat_ofNat _ 16).trans (Nat.mod_eq_of_lt hb)

/-- Settles O36: the encodings from `decode_encode`, each effect that of one index write. -/
theorem loadIndexAndGlyphAddress : Obligations.LoadIndexAndGlyphAddress :=
  ⟨fun _ nnn => ⟨decode_encode (.ldI nnn), _, rfl, zextAddr_toNat nnn, unchangedBut_setIndex⟩,
    fun s x => ⟨decode_encode (.ldF x), _, rfl, glyphAddr_toNat (s.reg x), unchangedBut_setIndex⟩⟩

end Sys2Proof.Machine

/-! SUPPORT. Faults: which fault an execute stage raises and when, which fault a STEP raises, and what InvalidOpcode and the two
call stack faults record. -/

namespace Sys2Proof.Machine

section Faults

variable {s t : State} {i : Instr} {w : Word} {r : FaultRecord}

/-! ## The fault of an execute stage (R210) -/

/-- The kind of the one fault that the execute stage of an instruction can raise (R201, R202, R207); of no account where
`faultCondition` never holds. -/
def faultKind : Instr → FaultKind
  | .ret => .stackUnderflow
  | .call _ => .stackOverflow
  | _ => .outOfBounds

/-- InvalidOpcode is raised by decode alone. -/
theorem faultKind_ne_invalidOpcode (i : Instr) : faultKind i ≠ .invalidOpcode := by cases i <;> nofun

theorem faultKind_eq_stackUnderflow (h : faultKind i = .stackUnderflow) : i = .ret := by
  cases i with
  | ret => rfl
  | _ => cases h

theorem faultKind_eq_stackOverflow (h : faultKind i = .stackOverflow) : ∃ nnn, i = .call nnn := by
  cases i with
  | call nnn => exact ⟨nnn, rfl⟩
  | _ => cases h

/-- An execute stage either leaves `FAULT` as it is or, exactly on the instruction's condition, raises the instruction's fault
and does nothing else (R203, R210). -/
theorem exec_fault_cases (h : exec i s = .next t) :
    (¬ faultCondition i s ∧ t.fault = s.fault) ∨
      (faultCondition i s ∧ ∃ addr, t = s.raiseIn i (faultKind i) addr) := by
  cases i with
  | cls | jp nnn | jpV0 nnn | ldImm x nn | addImm x nn | ldReg x y | orReg x y | andReg x y | xorReg x y | addReg x y
  | subReg x y | shr x y | subnReg x y | shl x y | ldI nnn | rnd x nn | ldVxDt x | ldDtVx x | ldStVx x | ldF x =>
    cases h; exact .inl ⟨id, rfl⟩
  | seImm x nn | sneImm x nn | seReg x y | sneReg x y | skp x | sknp x => cases h; exact .inl ⟨id, s.skipIf_fault _⟩
  | ldVxK x =>
    rcases execLdVxK_cases s x with ⟨-, he⟩ | ⟨k, -, he⟩
    · cases he.symm.trans h; exact .inl ⟨id, rfl⟩
    · cases he.symm.trans h; exact .inl ⟨id, rfl⟩
  | ret =>
    rcases execRet_cases s with ⟨hempty, he⟩ | ⟨st, w, hst, he⟩
    · cases he.symm.trans h; exact .inr ⟨hempty, _, rfl⟩
    · cases he.symm.trans h; exact .inl ⟨by simp [faultCondition, hst], rfl⟩
  | call nnn =>
    rcases execCall_cases s nnn with ⟨hfull, he⟩ | ⟨hfull, he⟩
    · cases he.symm.trans h; exact .inr ⟨hfull, _, rfl⟩
    · cases he.symm.trans h; exact .inl ⟨hfull, rfl⟩
  | addI x =>
    rcases execAddI_cases s x with ⟨hover, he⟩ | ⟨hfits, he⟩
    · cases he.symm.trans h; exact .inr ⟨hover, _, rfl⟩
    · cases he.symm.trans h; exact .inl ⟨Nat.not_lt.mpr hfits, rfl⟩
  | drw x y n =>
    rcases execDrw_cases s x y n with ⟨hout, he⟩ | ⟨hfits, drawn, -, he⟩
    · cases he.symm.trans h; exact .inr ⟨hout, _, rfl⟩
    · cases he.symm.trans h; exact .inl ⟨by simp only [faultCondition]; omega, rfl⟩
  | ldB x =>
    rcases execLdB_cases s x with ⟨hout, he⟩ | ⟨hfits, he⟩
    · cases he.symm.trans h; exact .inr ⟨hout, _, rfl⟩
    · cases he.symm.trans h; exact .inl ⟨Nat.not_lt.mpr hfits, s.writeBytes_fault _ _⟩
  | storeRegs x =>
    rcases execStoreRegs_cases s x with ⟨hout, he⟩ | ⟨hfits, he⟩
    · cases he.symm.trans h; exact .inr ⟨hout, _, rfl⟩
    · cases he.symm.trans h; exact .inl ⟨Nat.not_lt.mpr hfits, s.writeBytes_fault _ _⟩
  | loadRegs x =>
    rcases execLoadRegs_cases s x with ⟨hout, he⟩ | ⟨hfits, he⟩
    · cases he.symm.trans h; exact .inr ⟨hout, _, rfl⟩
    · cases he.symm.trans h; exact .inl ⟨Nat.not_lt.mpr hfits, rfl⟩

/-! ## The fault of a STEP (R208) -/

/-- The decoder refuses exactly the words that match no row (R74, R76). -/
theorem decode_error_iff_no_row :
    (∃ e, decode w = .error e) ↔ ∀ row ∈ opcodeMap, w &&& row.mask ≠ row.bits := by
  constructor
  · rintro ⟨e, he⟩ row hrow hmatch
    obtain ⟨j, -, rfl⟩ := List.mem_map.mp hrow
    exact decode_ne_error_of_and_mask hmatch e he
  · intro hno
    cases hd : decode w with
    | error e => exact ⟨e, rfl⟩
    | ok j => exact absurd (and_mask_of_decode hd) (hno _ (opcodeRow_mem_opcodeMap j))

/-- A running machine that fetches a word which does not decode raises InvalidOpcode with that word, `PC` advanced (R200). -/
theorem step_of_decode_error (hf : s.fault = none) (hp : s.pc.toNat + 2 ≤ 4096)
    (hd : ∃ e, decode (s.wordAt s.pc.toNat) = .error e) :
    step s = .next (s.advance.raiseInvalid (s.wordAt s.pc.toNat)) := by
  obtain ⟨e, he⟩ := hd
  rcases step_cases s with ⟨hhalted, -⟩ | ⟨-, hout, -⟩ | ⟨-, -, -, hs⟩ | ⟨j, -, -, hj, -⟩
  · exact absurd hf hhalted
  · omega
  · exact hs
  · cases hj.symm.trans he

/-- A STEP that fetches `i` executes `i`. -/
theorem State.fetches.step_eq (h : s.fetches i) : step s = exec i s.advance := by
  obtain ⟨hf, hp, hw⟩ := h
  exact step_of_decode hf hp (hw ▸ decode_encode i)

/-- All the faults that a STEP can raise, by the stage that raises them: fetch, decode, execute. -/
theorem step_fault_cases (hf : s.fault = none) (h : step s = .next t) (hr : t.fault = some r) :
    (r.kind = .outOfBounds ∧ 4096 < s.pc.toNat + 2) ∨
      (r.kind = .invalidOpcode ∧ s.pc.toNat + 2 ≤ 4096 ∧
        ∀ row ∈ opcodeMap, s.wordAt s.pc.toNat &&& row.mask ≠ row.bits) ∨
      ∃ i, r.kind = faultKind i ∧ s.fetches i ∧ faultCondition i s.advance := by
  rcases step_cases s with ⟨hhalted, -⟩ | ⟨-, hout, hs⟩ | ⟨-, hp, he, hs⟩ | ⟨i, -, hp, hd, hs⟩
  · exact absurd hf hhalted
  · cases hs.symm.trans h; cases hr
    exact .inl ⟨rfl, hout⟩
  · cases hs.symm.trans h; cases hr
    exact .inr (.inl ⟨rfl, hp, decode_error_iff_no_row.mp he⟩)
  · rcases exec_fault_cases (hs.symm.trans h) with ⟨-, hkept⟩ | ⟨hcond, addr, rfl⟩
    · cases hr.symm.trans (hkept.trans hf)
    · cases hr
      exact .inr (.inr ⟨i, rfl, ⟨hf, hp, (encode_of_decode hd).symm⟩, hcond⟩)

/-- A STEP that raises a fault which only an execute stage raises fetches an instruction with that fault, on its condition. -/
theorem step_execute_fault (hf : s.fault = none) (h : step s = .next t) (hr : t.fault = some r)
    (hbounds : r.kind ≠ .outOfBounds) (hopcode : r.kind ≠ .invalidOpcode) :
    ∃ i, r.kind = faultKind i ∧ s.fetches i ∧ faultCondition i s.advance := by
  rcases step_fault_cases hf h hr with ⟨hfetch, -⟩ | ⟨hdecode, -⟩ | hexec
  · exact absurd hfetch hbounds
  · exact absurd hdecode hopcode
  · exact hexec

end Faults

/-- Settles O7: no row means that decode fails, and neither fetch nor an execute stage raises InvalidOpcode. -/
theorem unmatchedWordRaisesInvalidOpcode : Obligations.UnmatchedWordRaisesInvalidOpcode := by
  refine ⟨rfl, fun s hf hp hno => step_of_decode_error hf hp (decode_error_iff_no_row.mpr hno),
    fun s t r hf h hr hk => ?_⟩
  rcases step_fault_cases hf h hr with ⟨hfetch, -⟩ | ⟨-, hdecode⟩ | ⟨i, hexec, -⟩
  · cases hfetch.symm.trans hk
  · exact hdecode
  · exact absurd (hexec.symm.trans hk) (faultKind_ne_invalidOpcode i)

/-- Settles O8: the outcomes of 00EE and 2nnn with `PC` advanced, and that no other instruction has a call stack fault. -/
theorem callStackFaults : Obligations.CallStackFaults := by
  refine ⟨rfl, rfl, rfl, fun s hs hempty => ?_, fun s nnn hs hfull => ?_, fun s nnn hs hnone => ?_,
    fun s t r hf h hr => ⟨fun hk => ?_, fun hk => ?_⟩⟩
  · rcases execRet_cases s.advance with ⟨-, he⟩ | ⟨st, w, hst, -⟩
    · exact hs.step_eq.trans he
    · simp [hempty] at hst
  · rcases execCall_cases s.advance nnn with ⟨-, he⟩ | ⟨hnot, -⟩
    · exact hs.step_eq.trans he
    · exact absurd hfull hnot
  · have hnot : s.advance.cfg.stackDepth ≠ some s.advance.stack.length := by simp [hnone]
    obtain ⟨hrun, -, -⟩ := id hs
    exact ⟨_, hs.step_eq.trans (exec_call_of_not_full hnot), hrun⟩
  · obtain ⟨i, hi, hfetch, hcond⟩ := step_execute_fault hf h hr (by simp [hk]) (by simp [hk])
    cases faultKind_eq_stackUnderflow (hi.symm.trans hk)
    exact ⟨hfetch, hcond⟩
  · obtain ⟨i, hi, hfetch, hcond⟩ := step_execute_fault hf h hr (by simp [hk]) (by simp [hk])
    obtain ⟨nnn, rfl⟩ := faultKind_eq_stackOverflow (hi.symm.trans hk)
    exact ⟨nnn, hfetch, hcond⟩

end Sys2Proof.Machine

/-! SUPPORT. What PRESS, RELEASE and RESET did when they reached a state: a refused event reaches none. -/

namespace Sys2Proof.Machine

section Accepted

variable {s t : State} {k : Nat} {p : List Byte} {m : Mode}

theorem eq_press_of_fire (h : fire (.press k) s = .next t) : t = s.press k := by
  by_cases hk : k < 16
  · cases (fire_press hk).symm.trans h; rfl
  · cases (fire_press_refused hk).symm.trans h

theorem eq_release_of_fire (h : fire (.release k) s = .next t) : t = s.release k := by
  by_cases hk : k < 16
  · cases (fire_release hk).symm.trans h; rfl
  · cases (fire_release_refused hk).symm.trans h

theorem eq_restart_of_fire (h : fire (.reset p m) s = .next t) : p.length ≤ 3584 ∧ t = s.restart p m := by
  by_cases hp : p.length ≤ 3584
  · cases (fire_reset hp).symm.trans h; exact ⟨hp, rfl⟩
  · cases (fire_reset_refused hp).symm.trans h

end Accepted

end Sys2Proof.Machine

/-! SUPPORT. The machine invariant over all events: RESET constructs a state that has it, and the events of the host write
nothing it speaks of. -/

namespace Sys2Proof.Machine

section Histories

variable {e : Event} {es : List Event} {s t : State}

/-- The reset values meet the invariant, whatever the parameters, the mode and the draw counter are. -/
theorem invariant_resetValues (cfg : Config) (m : Mode) (n : Nat) :
    Invariant { State.reset with cfg := cfg, mode := m, rndCount := n } :=
  ⟨Memory.nil_wf, fun _ _ => Nat.zero_le _, show (0x200 : Word).toNat ≤ 0x10FE by decide, nofun, nofun⟩

/-- A PROGRAM that RESET takes lies within memory from 0x200 on (R242). -/
theorem invariant_restart {p : List Byte} {m : Mode} (hp : p.length ≤ 3584) : Invariant (s.restart p m) :=
  (invariant_resetValues s.cfg m s.rndCount).writeBytes (show 0x200 + p.length ≤ 4096 by omega)

/-- An event of the host that does nothing while halted keeps the invariant if its effect does. -/
theorem Invariant.unlessHalted (hi : Invariant s) (ht : Invariant t) : Invariant (if s.halted then s else t) := by
  split_ifs
  · exact hi
  · exact ht

/-- Every event keeps the invariant: TICK, PRESS, RELEASE and ACK_DISPLAY write only elements that it does not speak of. -/
theorem Invariant.fire (hi : Invariant s) (h : fire e s = .next t) : Invariant t := by
  cases e with
  | step => exact stepKeepsTheMachineInvariant s t hi h
  | tick => cases h; exact hi.unlessHalted hi
  | press k => cases eq_press_of_fire h; exact hi.unlessHalted hi
  | release k => cases eq_release_of_fire h; exact hi.unlessHalted hi
  | ackDisplay => cases h; exact hi.unlessHalted hi
  | reset p m =>
    obtain ⟨hp, rfl⟩ := eq_restart_of_fire h
    exact invariant_restart hp

/-- A history that reaches a state fires its first event and goes on from the state that gives (R231). -/
theorem exists_fire_of_runEvents_cons (h : runEvents (e :: es) s = .next t) :
    ∃ u, fire e s = .next u ∧ runEvents es u = .next t := by
  rw [runEvents] at h
  cases hfire : fire e s with
  | next u => rw [hfire] at h; exact ⟨u, rfl, h⟩
  | fault r => rw [hfire] at h; cases h
  | refused r => rw [hfire] at h; cases h

end Histories

/-- Settles O53, by induction on the list of events. -/
theorem everyHistoryKeepsTheMachineInvariant : Obligations.EveryHistoryKeepsTheMachineInvariant := by
  intro es s t hi h
  induction es generalizing s with
  | nil => cases h; exact hi
  | cons e es ih =>
    obtain ⟨u, hfire, hrest⟩ := exists_fire_of_runEvents_cons h
    exact ih u (hi.fire hfire) hrest

/-- Settles O54. -/
theorem resetStateMeetsTheMachineInvariant : Obligations.ResetStateMeetsTheMachineInvariant :=
  invariant_resetValues Config.standard .classic 0

end Sys2Proof.Machine

/-! SUPPORT. OutOfBounds; when an execute stage faults; that STEP is total; the halted machine. -/

namespace Sys2Proof.Machine

/-- Settles O9: each row by the out-of-bounds outcome of its instruction with `PC` advanced; conversely, of the instructions
whose fault is OutOfBounds only those of the table have a condition that can hold. -/
theorem outOfBoundsIsRaisedExactlyAsTabulated : Obligations.OutOfBoundsIsRaisedExactlyAsTabulated := by
  refine ⟨rfl, fun s hf hout => ?_, fun s x y n hs hpos hout => ?_, fun s x hs hout => ?_, fun s x hs hout => ?_,
    fun s x hs hout => ?_, fun s x hs hover => ?_, fun s t r hf h hr hk => ?_⟩
  · rcases step_cases s with ⟨hhalted, -⟩ | ⟨-, -, he⟩ | ⟨-, hp, -⟩ | ⟨i, -, hp, -⟩
    · exact absurd hf hhalted
    · exact he
    · omega
    · omega
  · rcases execDrw_cases s.advance x y n with ⟨-, he⟩ | ⟨hfits, -⟩
    · exact hs.step_eq.trans he
    · rw [State.advance_i] at hfits; omega
  · rcases execLdB_cases s.advance x with ⟨-, he⟩ | ⟨hfits, -⟩
    · exact hs.step_eq.trans he
    · exact absurd hout (Nat.not_lt.mpr hfits)
  · rcases execStoreRegs_cases s.advance x with ⟨-, he⟩ | ⟨hfits, -⟩
    · exact hs.step_eq.trans he
    · exact absurd hout (Nat.not_lt.mpr hfits)
  · rcases execLoadRegs_cases s.advance x with ⟨-, he⟩ | ⟨hfits, -⟩
    · exact hs.step_eq.trans he
    · exact absurd hout (Nat.not_lt.mpr hfits)
  · rcases execAddI_cases s.advance x with ⟨-, he⟩ | ⟨hfits, -⟩
    · exact hs.step_eq.trans he
    · exact absurd hover (Nat.not_lt.mpr hfits)
  · rcases step_fault_cases hf h hr with ⟨-, hout⟩ | ⟨hdecode, -⟩ | ⟨i, hkind, hfetch, hcond⟩
    · exact .inl hout
    · cases hdecode.symm.trans hk
    · refine .inr ?_
      cases i with
      | drw x y n => exact .inl ⟨x, y, n, hfetch, hcond⟩
      | ldB x => exact .inr (.inl ⟨x, hfetch, hcond⟩)
      | storeRegs x => exact .inr (.inr (.inl ⟨x, hfetch, hcond⟩))
      | loadRegs x => exact .inr (.inr (.inr (.inl ⟨x, hfetch, hcond⟩)))
      | addI x => exact .inr (.inr (.inr (.inr ⟨x, hfetch, hcond⟩)))
      | ret | call nnn => cases hkind.symm.trans hk
      | _ => exact hcond.elim

/-- Settles O10: an execute stage either keeps `FAULT` or raises, on its condition alone. -/
theorem instructionFaultsExactlyAsListed : Obligations.InstructionFaultsExactlyAsListed := by
  intro i s t hf h
  rcases exec_fault_cases h with ⟨hno, hkept⟩ | ⟨hcond, addr, rfl⟩
  · rw [hkept, hf]
    exact ⟨iff_of_false (by simp) hno, nofun⟩
  · refine ⟨iff_of_true (by simp) hcond, ?_⟩
    rintro _ ⟨⟩
    exact ⟨rfl, rfl, unchangedBut_raiseIn⟩

/-- Every meaning answers a next state: those with several outcomes in each of them, the others by definition. -/
theorem exec_answers_next (i : Instr) (s : State) : ∃ t, exec i s = .next t := by
  cases i with
  | ret => rcases execRet_cases s with ⟨-, he⟩ | ⟨_, _, -, he⟩ <;> exact ⟨_, he⟩
  | call nnn => rcases execCall_cases s nnn with ⟨-, he⟩ | ⟨-, he⟩ <;> exact ⟨_, he⟩
  | addI x => rcases execAddI_cases s x with ⟨-, he⟩ | ⟨-, he⟩ <;> exact ⟨_, he⟩
  | drw x y n => rcases execDrw_cases s x y n with ⟨-, he⟩ | ⟨-, _, -, he⟩ <;> exact ⟨_, he⟩
  | ldVxK x => rcases execLdVxK_cases s x with ⟨-, he⟩ | ⟨_, -, he⟩ <;> exact ⟨_, he⟩
  | ldB x => rcases execLdB_cases s x with ⟨-, he⟩ | ⟨-, he⟩ <;> exact ⟨_, he⟩
  | storeRegs x => rcases execStoreRegs_cases s x with ⟨-, he⟩ | ⟨-, he⟩ <;> exact ⟨_, he⟩
  | loadRegs x => rcases execLoadRegs_cases s x with ⟨-, he⟩ | ⟨-, he⟩ <;> exact ⟨_, he⟩
  | _ => exact ⟨_, rfl⟩

/-- Settles O11: a halted machine stays, a fault is a next state, and every meaning answers one. -/
theorem stepAlwaysAnswersANextState : Obligations.StepAlwaysAnswersANextState := by
  intro s
  rcases step_cases s with ⟨-, hs⟩ | ⟨-, -, hs⟩ | ⟨-, -, -, hs⟩ | ⟨i, -, -, -, hs⟩
  · exact ⟨_, hs⟩
  · exact ⟨_, hs⟩
  · exact ⟨_, hs⟩
  · obtain ⟨t, ht⟩ := exec_answers_next i s.advance
    exact ⟨t, hs.trans ht⟩

theorem step_of_halted {s : State} (h : s.fault ≠ none) : step s = .next s := if_pos (s.halted_iff.mpr h)

/-- Settles O12: each event but RESET is the identity on a halted machine, and RESET writes FAULT. -/
theorem haltedMachineIsFrozenUntilReset : Obligations.HaltedMachineIsFrozenUntilReset := by
  refine ⟨fun s t e hf hne h => ?_, fun s p m _ hp => ⟨_, fire_reset hp, by rw [State.restart_eq]; rfl⟩⟩
  cases e with
  | step => cases (step_of_halted hf).symm.trans h; rfl
  | tick => cases h; exact State.tick_of_halted hf
  | press k => exact (eq_press_of_fire h).trans (State.press_of_halted hf)
  | release k => exact (eq_release_of_fire h).trans (State.release_of_halted hf)
  | ackDisplay => cases h; exact State.ackDisplay_of_halted hf
  | reset p m => exact absurd rfl (hne p m)

end Sys2Proof.Machine

/-! SUPPORT. VF as a flag, and the sprite drawn twice. -/

namespace Sys2Proof.Machine

theorem flagByte_eq_zero_or_one (c : Bool) : flagByte c = 0 ∨ flagByte c = 1 := by
  cases c
  · exact .inl rfl
  · exact .inr rfl

/-- Settles O35: `setResultFlag` and Dxyn leave a flag in VF; that the others keep VF is a case of O50. -/
theorem onlyFlagInstructionsWriteVf : Obligations.OnlyFlagInstructionsWriteVf := by
  refine ⟨fun s t i _ h hrun hi => ?_, fun s t i h hvf => instructionsWriteOnlyTheirRegisters i s t Reg.vf h hvf⟩
  rcases hi with ⟨x, y, hi⟩ | ⟨x, y, n, rfl⟩
  · have hflag : ∃ b c, t = s.setResultFlag x b c := by
      rcases hi with rfl | rfl | rfl | rfl | rfl <;> cases h <;> exact ⟨_, _, rfl⟩
    obtain ⟨b, c, rfl⟩ := hflag
    rw [State.reg_setResultFlag_vf]
    exact flagByte_eq_zero_or_one c
  · rcases execDrw_cases s x y n with ⟨-, he⟩ | ⟨-, drawn, -, he⟩
    · cases he.symm.trans h; cases hrun
    · cases he.symm.trans h
      rw [State.present_reg, State.reg_setReg, if_pos rfl]
      exact flagByte_eq_zero_or_one drawn.2

/-- The sprite bits depend on `V[x]`, `V[y]`, `I` and memory alone. -/
theorem spriteBit_congr {s t : State} {x y : Reg} (n : Fin 16) (row col : Nat) (hx : t.reg x = s.reg x)
    (hy : t.reg y = s.reg y) (hi : t.i = s.i) (hmem : ∀ a, t.readByte a = s.readByte a) :
    spriteBit t x y n row col = spriteBit s x y n row col := by
  simp only [spriteBit, hx, hy, hi, hmem]

/-- Settles O40: both draws exclusive-or the same sprite bits, and the second collides where a bit falls on a pixel that is
lit after the first, which is one that was off before it. -/
theorem drawingTwiceRestoresTheScreen : Obligations.DrawingTwiceRestoresTheScreen := by
  intro s t x y n hx hy hfits h
  obtain ⟨-, hdraw, -⟩ := drawXorsTheClippedSprite
  obtain ⟨t', ht, hpixel, -, -, -, hregs, hframe⟩ := hdraw s x y n hfits
  cases ht.symm.trans h
  have hi : t.i = s.i := hframe .index (by simp)
  have hbit : ∀ row col, spriteBit t x y n row col = spriteBit s x y n row col := fun row col =>
    spriteBit_congr n row col (hregs x hx) (hregs y hy) hi (hframe .mem (by simp))
  obtain ⟨u, hu, hpixel', hhits, hmisses, -⟩ := hdraw t x y n (by rwa [hi])
  refine ⟨u, hu, FrameBuffer.ext_pixel fun row hr col hc => ?_, ?_⟩
  · rw [hpixel' row hr col hc, hbit, hpixel row hr col hc, Bool.xor_assoc, Bool.xor_self, Bool.xor_false]
  · have hflag : u.reg Reg.vf = 1 ↔ spriteHits t x y n := by
      refine ⟨fun hone => ?_, hhits⟩
      by_contra hno
      cases (hmisses hno).symm.trans hone
    rw [hflag, spriteHits]
    refine exists_congr fun row => and_congr_right fun hr => exists_congr fun col => and_congr_right fun hc => ?_
    rw [hbit, hpixel row hr col hc]
    cases spriteBit s x y n row col <;> simp

end Sys2Proof.Machine

/-! SUPPORT. The key wait Fx0A. -/

namespace Sys2Proof.Machine

section KeyWait

variable {keys : BitVec 16} {k : Nat}

/-- The key found is held and no lower one is (R172). -/
theorem lowestKey_eq_some_iff :
    lowestKey keys = some k ↔ k < 16 ∧ keys.getLsbD k = true ∧ ∀ j < k, keys.getLsbD j = false := by
  simp only [lowestKey, List.find?_range_eq_some, List.mem_range, Bool.not_eq_true']
  exact and_left_comm

/-- With no key held none is found. -/
theorem lowestKey_zero : lowestKey 0 = none := by decide

end KeyWait

/-- Settles O42: with no key held `PC` goes back over the fetch advance; otherwise one register write of the key found. -/
theorem keyWaitPollsForTheLowestKey : Obligations.KeyWaitPollsForTheLowestKey := by
  refine ⟨fun s x hs hnone => ?_, fun s x k hk hheld hlower => ?_⟩
  · rcases execLdVxK_cases s.advance x with ⟨-, he⟩ | ⟨k, hk, -⟩
    · calc step s
          = .next (s.advance.jump (s.advance.pc - 2)) := hs.step_eq.trans he
        _ = .next s := by rw [State.advance_pc, BitVec.add_sub_cancel]; rfl
    · rw [State.advance_keys, hnone, lowestKey_zero] at hk
      cases hk
  · have hlowest : lowestKey s.keys = some k := lowestKey_eq_some_iff.mpr ⟨hk, hheld, hlower⟩
    rcases execLdVxK_cases s x with ⟨hno, -⟩ | ⟨k', hk', he⟩
    · cases hno.symm.trans hlowest
    · cases hk'.symm.trans hlowest
      refine ⟨_, he, ?_, fun r hr => State.reg_setReg_of_ne (beq_false_of_ne hr), unchangedBut_setReg⟩
      rw [State.reg_setReg, if_pos rfl, BitVec.toNat_ofNat, Nat.mod_eq_of_lt (by omega)]

end Sys2Proof.Machine

/-! SUPPORT. Memory transfer: Fx33, Fx55 and Fx65 within memory, and a store that is fetched from. -/

namespace Sys2Proof.Machine

section Transfer

variable {s : State} {x : Reg}

theorem exec_storeRegs_of_fits (h : s.i.toNat + x.val ≤ 4095) :
    exec (.storeRegs x) s = .next (s.writeBytes s.i.toNat (s.regsUpTo x)) :=
  ((execStoreRegs_cases s x).resolve_left fun hout => by omega).2

theorem exec_loadRegs_of_fits (h : s.i.toNat + x.val ≤ 4095) :
    exec (.loadRegs x) s = .next (s.loadRegsFrom s.i.toNat x) :=
  ((execLoadRegs_cases s x).resolve_left fun hout => by omega).2

/-- The byte stored for `V[k]`, read back. -/
theorem State.readByte_writeBytes_regsUpTo (base : Nat) {k : Reg} (hk : k ≤ x) :
    (s.writeBytes base (s.regsUpTo x)).readByte (base + k.val) = s.reg k := by
  have hlen : k.val < (s.regsUpTo x).length := by rw [State.regsUpTo_length]; exact Nat.lt_succ_of_le hk
  rw [s.readByte_writeBytes_inside hlen, s.regsUpTo_getElem x k.val hlen k.isLt]

end Transfer

/-- Settles O44: three digits, each below 10, so that none is cut off as a byte; or the fault. -/
theorem bcdStoresThreeDigits : Obligations.BcdStoresThreeDigits := by
  refine ⟨fun x => decode_encode (.ldB x), fun s x hfits => ?_, fun s x hout => ?_⟩
  · rcases execLdB_cases s x with ⟨hout, -⟩ | ⟨-, he⟩
    · omega
    · have hbyte := (s.reg x).isLt
      have hdigit : ∀ k (hk : k < 3), (s.writeBytes s.i.toNat (bcdDigits (s.reg x))).readByte (s.i.toNat + k) =
          (bcdDigits (s.reg x))[k]'hk := fun k hk => s.readByte_writeBytes_inside hk
      refine ⟨_, he, ?_, ?_, ?_, fun a ha => s.readByte_writeBytes_outside ha, unchangedBut_writeBytes⟩
      · exact (congrArg BitVec.toNat (hdigit 0 (by decide))).trans (Nat.mod_eq_of_lt (by omega))
      · exact (congrArg BitVec.toNat (hdigit 1 (by decide))).trans (Nat.mod_eq_of_lt (by omega))
      · exact (congrArg BitVec.toNat (hdigit 2 (by decide))).trans (Nat.mod_eq_of_lt (by omega))
  · rcases execLdB_cases s x with ⟨-, he⟩ | ⟨hfits, -⟩
    · exact he
    · omega

/-- Settles O45. -/
theorem storeRegistersWritesVZeroToVx : Obligations.StoreRegistersWritesVZeroToVx := fun s x hfits =>
  ⟨_, exec_storeRegs_of_fits hfits, fun _ hk => State.readByte_writeBytes_regsUpTo s.i.toNat hk,
    fun _ ha => s.readByte_writeBytes_outside (by rw [State.regsUpTo_length]; omega), unchangedBut_writeBytes⟩

/-- Settles O46. -/
theorem loadRegistersReadsVZeroToVx : Obligations.LoadRegistersReadsVZeroToVx := fun s x hfits =>
  ⟨_, exec_loadRegs_of_fits hfits, s.reg_loadRegsFrom s.i.toNat x, unchangedBut_loadRegsFrom⟩

/-- Settles O47: the load reads at the same `I`, which the store and the overwriting keep, the bytes that were stored. -/
theorem storeThenLoadRestoresRegisters : Obligations.StoreThenLoadRestoresRegisters := by
  intro s x v hfits
  obtain ⟨t, hstore, hbytes, -, hframe⟩ := storeRegistersWritesVZeroToVx s x hfits
  have hi : t.i = s.i := hframe .index (by simp)
  obtain ⟨u, hload, hregs, -⟩ := loadRegistersReadsVZeroToVx { t with v := v } x (by rwa [← hi] at hfits)
  refine ⟨t, u, hstore, hload, fun k hk => ?_⟩
  calc u.reg k
      = t.readByte (t.i.toNat + k.val) := (hregs k).trans (if_pos hk)
    _ = s.reg k := by rw [hi, hbytes k hk]

/-- Settles O48: the word at `PC` after the store is that of the two registers stored there. -/
theorem storeIsSeenByTheNextFetch : Obligations.StoreIsSeenByTheNextFetch := by
  intro s x k k' i hf hfits hsucc hk' hpc hd
  have hx : k'.val ≤ x.val := hk'
  have hk : k ≤ x := show k.val ≤ x.val by omega
  obtain ⟨t, hstore, hbytes, -, hframe⟩ := storeRegistersWritesVZeroToVx s x hfits
  have hpct : t.pc = s.pc := hframe .pc (by simp)
  have hrun : t.fault = none := Eq.trans (hframe .fault (by simp)) hf
  have hword : t.wordAt t.pc.toNat = s.reg k ++ s.reg k' := by
    rw [State.wordAt, wordOfBytes, hpct, hpc, hbytes k hk, Nat.add_assoc, ← hsucc, hbytes k' hk']
  exact ⟨t, hstore, step_of_decode hrun (by rw [hpct]; omega) (hword ▸ hd)⟩

end Sys2Proof.Machine

/-! SUPPORT. MODE: no instruction but Bnnn reads it, and none writes it. -/

namespace Sys2Proof.Machine

/-- The state in mode `m`. -/
def State.withMode (m : Mode) (s : State) : State := { s with mode := m }

/-- The outcome with its next state, if it is one, in mode `m`. -/
def outcomeWithMode (m : Mode) : Host.Outcome State Fault Refusal → Host.Outcome State Fault Refusal
  | .next s => .next (s.withMode m)
  | .fault r => .fault r
  | .refused r => .refused r

section Mode

theorem outcomeWithMode_ite {m : Mode} {c : Prop} {inst : Decidable c}
    {o₁ o₂ o₁' o₂' : Host.Outcome State Fault Refusal} (h₁ : o₁' = outcomeWithMode m o₁) (h₂ : o₂' = outcomeWithMode m o₂) :
    (if c then o₁' else o₂') = outcomeWithMode m (if c then o₁ else o₂) := by
  rw [h₁, h₂, apply_ite (outcomeWithMode m)]

variable (m : Mode) (s : State)

theorem State.writeBytes_withMode (base : Nat) (bs : List Byte) :
    (s.withMode m).writeBytes base bs = (s.writeBytes base bs).withMode m := by
  induction bs generalizing s base with
  | nil => rfl
  | cons b bs ih => exact ih (s.writeByte base b) (base + 1)

theorem State.skipIf_withMode (c : Bool) : (s.withMode m).skipIf c = (s.skipIf c).withMode m := by
  cases c <;> rfl

/-- No meaning but that of Bnnn depends on MODE: each tests and samples other elements only. -/
theorem exec_withMode {i : Instr} (hi : ∀ nnn, i ≠ .jpV0 nnn) :
    exec i (s.withMode m) = outcomeWithMode m (exec i s) := by
  cases i with
  | jpV0 nnn => exact absurd rfl (hi nnn)
  | ret =>
    rcases s.pop_cases with ⟨hs, hp⟩ | ⟨st, w, hs, hp⟩
    · simp only [exec, execRet, hp, (s.withMode m).pop_nil hs]; rfl
    · simp only [exec, execRet, hp, (s.withMode m).pop_concat hs]; rfl
  | call nnn | addI x | drw x y n | loadRegs x => exact outcomeWithMode_ite rfl rfl
  | ldB x | storeRegs x => exact outcomeWithMode_ite (congrArg Host.Outcome.next (State.writeBytes_withMode m s _ _)) rfl
  | ldVxK x =>
    have hkeys : (s.withMode m).keys = s.keys := rfl
    simp only [exec, execLdVxK, hkeys]
    cases lowestKey s.keys with
    | none => rfl
    | some k => rfl
  | seImm x nn | sneImm x nn | seReg x y | sneReg x y | skp x | sknp x =>
    exact congrArg Host.Outcome.next (State.skipIf_withMode m s _)
  | _ => rfl

end Mode

/-- Settles O57. -/
theorem modeMattersOnlyToJumpWithOffset : Obligations.ModeMattersOnlyToJumpWithOffset := by
  intro i s t m hi h
  exact (exec_withMode m s hi).trans (by rw [h]; rfl)

end Sys2Proof.Machine

/-! SUPPORT. The state after reset, TICK and ACK_DISPLAY, and the effects of 2nnn, Bnnn, Cxnn and Fx1E. -/

namespace Sys2Proof.Machine

/-- Settles O14: RESET of no bytes stores nothing over the reset image. -/
theorem resetStateIsResetOfTheEmptyProgram : Obligations.ResetStateIsResetOfTheEmptyProgram := by
  refine ⟨fun s hcfg hdraws => ?_, rfl, rfl, rfl, State.reset_reg, rfl, rfl, rfl, rfl, rfl, rfl, rfl,
    fun row _ col _ => FrameBuffer.blank_pixel row col⟩
  rw [fire_reset (Nat.zero_le _), State.restart, hcfg, hdraws]
  rfl

/-- Settles O15. -/
theorem tickCountsBothTimersDown : Obligations.TickCountsBothTimersDown := by
  refine ⟨fun s hf => ⟨s.tick, rfl, ?_, ?_, unchangedBut_tick⟩, fun s hf => congrArg _ (State.tick_of_halted hf)⟩
  · rw [State.tick_of_running hf, countDown_toNat]
  · rw [State.tick_of_running hf, countDown_toNat]

/-- Settles O18. -/
theorem ackDisplayClearsTheFlag : Obligations.AckDisplayClearsTheFlag :=
  ⟨fun s hf => ⟨s.ackDisplay, rfl, by rw [State.ackDisplay_of_running hf], unchangedBut_ackDisplay⟩,
    fun _ hf => congrArg _ (State.ackDisplay_of_halted hf)⟩

/-- Settles O22: a push of `PC` and a jump. -/
theorem callPushesTheReturnAddress : Obligations.CallPushesTheReturnAddress := fun _ nnn hs =>
  ⟨_, exec_call_of_not_full hs, rfl, zextAddr_toNat nnn, (unchangedBut_push.trans unchangedBut_jump).mono (by simp)⟩

theorem offsetBase_toNat (nnn : BitVec 12) : (offsetBase nnn).toNat = nnn.toNat % 256 := by
  simp [offsetBase]

/-- The high nibble of `nnn` is its quotient by 256. -/
theorem offsetReg_eq (nnn : BitVec 12) : offsetReg nnn = Fin.ofNat 16 (nnn.toNat / 256) := by
  apply Fin.ext
  simp [offsetReg, Nat.shiftRight_eq_div_pow]

/-- Settles O24: in either mode the sum of an address below 4096 and a byte fits 16 bits. -/
theorem jumpWithOffsetDependsOnMode : Obligations.JumpWithOffsetDependsOnMode := by
  refine fun s nnn => ⟨_, rfl, unchangedBut_jump, fun hmode => ?_, fun hmode => ?_⟩
  · have hsum : nnn.toNat + (s.reg Reg.v0).toNat < 2 ^ 16 := by omega
    simp only [State.jump_pc, State.offsetTarget, hmode, BitVec.toNat_add, zextAddr_toNat, zextByte_toNat]
    exact Nat.mod_eq_of_lt hsum
  · simp only [State.jump_pc, State.offsetTarget, hmode, BitVec.toNat_add, zextByte_toNat, offsetBase_toNat, offsetReg_eq]
    exact Nat.mod_eq_of_lt (by omega)

/-- Settles O30: the draw is a free value; what is masked away of it does not come back. -/
theorem randomByteIsMasked : Obligations.RandomByteIsMasked := by
  intro s x nn
  have hx : (s.storeDraw x nn (Config.drawRnd s.rndCount)).reg x = Config.drawRnd s.rndCount &&& nn := by
    rw [State.storeDraw, State.reg_setReg, if_pos rfl]
  refine ⟨_, rfl, hx, ?_, rfl, fun r hr => State.reg_setReg_of_ne (s := s) (beq_false_of_ne hr),
    exec_unchangedBut (i := .rnd x nn) rfl⟩
  refine (congrArg (· &&& ~~~nn) hx).trans ?_
  simp [BitVec.and_assoc]

/-- Settles O37. -/
theorem addToIndexIsExact : Obligations.AddToIndexIsExact := by
  intro s x hfits
  rcases execAddI_cases s x with ⟨hover, -⟩ | ⟨-, he⟩
  · omega
  · refine ⟨_, he, ?_, unchangedBut_setIndex⟩
    rw [State.setIndex_i, BitVec.toNat_ofNat, Nat.mod_eq_of_lt (by omega)]

end Sys2Proof.Machine
